-- ==== Sys2Proof/Word.lean ====
section
/-! DEFINITION. The word types of the block (spec/00_scope.md R8): bytes, the 9-bit frame length and the
16-bit checksum. Every quantity is unsigned. -/

namespace Sys2Proof

/-- A byte: 8 bits, bit 0 least significant (R8). -/
abbrev Byte := BitVec 8

/-- The width of `FL`: a `u9`, range 5..260 in use (10_state.md R23). -/
abbrev Word9 := BitVec 9

/-- The width of the `CRC` register: a `u16` (10_state.md R27). -/
abbrev Word16 := BitVec 16

/-- A byte sequence, index 0 first (R8): a chunk, a frame, a response. A frame and a response are values,
not memory (20_memory.md R41). -/
abbrev Bytes := List Byte

end Sys2Proof
end

