-- ==== Sys2Proof/Syntax.lean ====
section
/-! DEFINITION. The instructions: one constructor for each row of spec/opcode_table.json, in the table's
order, and the record of the time input `NOW` (spec/42_response.md R140). -/

namespace Sys2Proof

/-- The time input `NOW`: "a record of six integers" supplied in binary (R140). The platform must keep
each field in 0..99 (R230 (c)); a larger one is `COND_f` (R207), so the type admits it. -/
structure Now where
  /-- year minus 2000 -/
  yy : Nat
  /-- month -/
  mo : Nat
  /-- day -/
  dd : Nat
  /-- hour -/
  hh : Nat
  /-- minute -/
  mi : Nat
  /-- second -/
  ss : Nat
deriving DecidableEq, Repr, Inhabited

/-- One constructor per row of spec/opcode_table.json. A frame kind carries its `len` byte and the
`len + 1` bytes that follow the protocol id (content, checksum and trailer, 30_encoding.md R60): the
header word of R67 holds the rest. -/
inductive Instr where
  /-- `LOGIN`, header `78 78 LL 01` (42_response.md R143). -/
  | login (len : Byte) (tail : Bytes)
  /-- `HEARTBEAT`, header `78 78 LL 13` (R144). -/
  | heartbeat (len : Byte) (tail : Bytes)
  /-- `ADDR_CN`, header `78 78 LL 17` (R154). -/
  | addrCn (len : Byte) (tail : Bytes)
  /-- `RESP_ONLINE`, header `78 78 LL 21` (R155). -/
  | respOnline (len : Byte) (tail : Bytes)
  /-- `GPS`, header `78 78 LL 22` (R145). -/
  | gps (len : Byte) (tail : Bytes)
  /-- `ALARM`, header `78 78 LL 26` (R146). -/
  | alarm (len : Byte) (tail : Bytes)
  /-- `ID27`, header `78 78 LL 27` (R147). -/
  | id27 (len : Byte) (tail : Bytes)
  /-- `LBS_MULTI`, header `78 78 LL 28` (R148). -/
  | lbsMulti (len : Byte) (tail : Bytes)
  /-- `ADDR_REQ`, header `78 78 LL 2A` (R149). -/
  | addrReq (len : Byte) (tail : Bytes)
  /-- `ONLINE_CMD`, header `78 78 LL 80` (R156). -/
  | onlineCmd (len : Byte) (tail : Bytes)
  /-- `TIME_CAL`, header `78 78 LL 8A` (R153). -/
  | timeCal (len : Byte) (tail : Bytes)
  /-- `INFO_XFER`, header `78 78 LL 94` (R157). -/
  | infoXfer (len : Byte) (tail : Bytes)
  /-- `ADDR_EN`, header `78 78 LL 97` (R158). -/
  | addrEn (len : Byte) (tail : Bytes)
  /-- `GPS_A0`, header `78 78 LL A0` (R150). -/
  | gpsA0 (len : Byte) (tail : Bytes)
  /-- `LBS_4G`, header `78 78 LL A1` (R151). -/
  | lbs4g (len : Byte) (tail : Bytes)
  /-- `FENCE_ALARM`, header `78 78 LL A4` (R152). -/
  | fenceAlarm (len : Byte) (tail : Bytes)
  /-- `OTHER`, header `78 78 LL PP`, `PP` none of the sixteen ids above (R159). -/
  | other (len pid : Byte) (tail : Bytes)
  /-- `NONSYNC`: the bytes at OFF and OFF+1, not both `78` (40_framer.md R94). -/
  | nonsync (a b : Byte)
  /-- `ACK(pid, serial)`: the generic acknowledgment form (42_response.md R136). -/
  | ack (pid s0 s1 : Byte)
  /-- `TIMECAL_RSP(serial, now)`: the time-calibration response form (R137). -/
  | timecalRsp (s0 s1 : Byte) (now : Now)
  /-- `RESET` (70_reset_and_hazards.md R225). -/
  | reset
  /-- `FEED(chunk)` (40_framer.md R90). -/
  | feed (chunk : Bytes)
  /-- `F.APPEND` (R91). -/
  | fAppend (chunk : Bytes)
  /-- `F.SHORT` (R92). -/
  | fShort
  /-- `F.SKIP` (R94). -/
  | fSkip
  /-- `F.LEN` (R95). -/
  | fLen
  /-- `F.WAIT` (R96). -/
  | fWait
  /-- `F.EMIT` (R97). -/
  | fEmit
  /-- `F.COMPACT` (R98). -/
  | fCompact
  /-- `EXTRACT(frame)` (R100). -/
  | extract (frame : Bytes)
  /-- `CRC16(m)` (41_crc.md R120). -/
  | crc16 (m : Bytes)
  /-- `CRC.INIT` (R121). -/
  | crcInit
  /-- `CRC.BYTE(b)` (R122). -/
  | crcByte (b : Byte)
  /-- `CRC.FINAL` (R123). -/
  | crcFinal
  /-- `BUILD(pid, serial, now)` (42_response.md R135). -/
  | build (pid s0 s1 : Byte) (now : Now)
  /-- `PROCESS(frame)` (R160). -/
  | process (frame : Bytes)
deriving DecidableEq, Repr

end Sys2Proof
end

