-- ==== Sys2Proof/Machine/Params.lean ====
section
/-! DEFINITION. The constants of the block (spec/00_scope.md R7, spec/10_state.md R31) and the byte
helpers of spec/00_scope.md R8. They are constants, not state: no operation changes them. -/

namespace Sys2Proof

/-- The sync byte; a frame starts with two of them (R7 `SYNC`). -/
def syncByte : Byte := 0x78

/-- Bytes that must be available before the sync is tested (R7 `MIN_AVAIL`). -/
def minAvail : Nat := 6

/-- `frameLength - len` (R7 `LEN_BIAS`). -/
def lenBias : Nat := 5

/-- Distance of the first serial byte from the end of the frame (R7 `SERIAL_BACK`, 90_conflicts.md C3). -/
def serialBack : Nat := 6

/-- First trailer byte of a response (30_encoding.md R68, R69). -/
def trailer0 : Byte := 0x0D

/-- Second trailer byte of a response. -/
def trailer1 : Byte := 0x0A

/-- `len` of the generic acknowledgment (R68). -/
def ackLen : Byte := 0x05

/-- `len` of the time-calibration response (R69). -/
def timecalLen : Byte := 0x0B

/-- The protocol id that gets the time-calibration response (R7 `TIMECAL_ID`). -/
def timecalId : Byte := 0x8A

/-- The protocol ids that get the generic acknowledgment (R7 `ACK_SET`, 42_response.md R135). -/
def ackSet : List Byte := [0x01, 0x13, 0x22, 0x26, 0x27, 0x28, 0x2A, 0xA0, 0xA1, 0xA4]

/-- The sixteen protocol ids that Table R70 names; every other id is `OTHER`. -/
def namedPids : List Byte :=
  [0x01, 0x13, 0x17, 0x21, 0x22, 0x26, 0x27, 0x28, 0x2A, 0x80, 0x8A, 0x94, 0x97, 0xA0, 0xA1, 0xA4]

/-- The high byte of a `u16` (R8). -/
def hi (w : Word16) : Byte := w.extractLsb' 8 8

/-- The low byte of a `u16` (R8). -/
def lo (w : Word16) : Byte := w.extractLsb' 0 8

/-- Big-endian assembly of two bytes (R8, 20_memory.md R43). -/
def be16 (a b : Byte) : Word16 := a ++ b

/-- `frameLength` as the number `len + 5`, `len` unsigned (30_encoding.md R61, 10_state.md R23). -/
def frameLength (len : Byte) : Nat := len.toNat + lenBias

/-- `zext_9(len) + 5`, the value of `FL`: nine bits, never truncated to eight (10_state.md R23). -/
def frameLength9 (len : Byte) : Word9 := len.zeroExtend 9 + BitVec.ofNat 9 lenBias

/-- Every field of `NOW` is in 0..99, as the platform must see to (42_response.md R140, R230 (c)). -/
def Now.inRange (t : Now) : Bool :=
  decide (t.yy ≤ 99) && decide (t.mo ≤ 99) && decide (t.dd ≤ 99) &&
  decide (t.hh ≤ 99) && decide (t.mi ≤ 99) && decide (t.ss ≤ 99)

/-- `bcd(v)`: tens digit in the high nibble, units digit in the low nibble (42_response.md R141). Used
only on 0..99. -/
def bcd (v : Nat) : Byte := (BitVec.ofNat 8 (v / 10)) <<< 4 ||| BitVec.ofNat 8 (v % 10)

/-- The number a packed BCD byte stands for, `none` where a nibble is no decimal digit. -/
def unbcd (b : Byte) : Option Nat :=
  let tens := (b >>> 4).toNat
  let units := (b &&& 0x0F).toNat
  if tens ≤ 9 ∧ units ≤ 9 then some (tens * 10 + units) else none

/-- The six time bytes of a time-calibration response, for a `NOW` in range (R137). -/
def Now.bcdBytes (t : Now) : Bytes := [bcd t.yy, bcd t.mo, bcd t.dd, bcd t.hh, bcd t.mi, bcd t.ss]

end Sys2Proof
end

