-- ==== Sys2Proof/Machine/Checksum.lean ====
section
/-! DEFINITION. The CRC-16/X-25 arithmetic as pure functions (spec/41_crc.md) and the byte layouts of the
two responses (spec/30_encoding.md R68, R69). -/

namespace Sys2Proof

/-- The CRC polynomial in reversed bit order (R120, R122). -/
def crcPoly : Word16 := 0x8408

/-- The initial register (R121). -/
def crcInitValue : Word16 := 0xFFFF

/-- One shift of the register: right by one, and when the bit shifted out was 1 exclusive-or with
`0x8408` (R122). -/
def crcShift (c : Word16) : Word16 := if c.getLsbD 0 then (c >>> 1) ^^^ crcPoly else c >>> 1

/-- `n` shifts. -/
def crcShifts : Nat → Word16 → Word16
  | 0, c => c
  | n + 1, c => crcShifts n (crcShift c)

/-- `CRC.BYTE(b)`: the byte into the low 8 bits, then 8 shifts (R122). -/
def crcByte (c : Word16) (b : Byte) : Word16 := crcShifts 8 (c ^^^ b.zeroExtend 16)

/-- The register after `CRC.INIT` and one `CRC.BYTE` for each byte in index order (R120). -/
def crcRegister (m : Bytes) : Word16 := m.foldl crcByte crcInitValue

/-- `CRC.FINAL`: the one's complement of the register (R123). -/
def crcFinish (c : Word16) : Word16 := c ^^^ 0xFFFF

/-- `CRC16(m)` (R120). -/
def crc16 (m : Bytes) : Word16 := crcFinish (crcRegister m)

/-- The bytes of an acknowledgment that its checksum covers, response bytes 2..5 (41_crc.md R126). -/
def ackCovered (pid s0 s1 : Byte) : Bytes := [ackLen, pid, s0, s1]

/-- The bytes of a time-calibration response that its checksum covers, response bytes 2..11 (R126). -/
def timecalCovered (time : Bytes) (s0 s1 : Byte) : Bytes := [timecalLen, timecalId] ++ time ++ [s0, s1]

/-- A response from the bytes its checksum covers: sync, those bytes, checksum high byte first (R125),
trailer. -/
def sealResponse (covered : Bytes) : Bytes :=
  [syncByte, syncByte] ++ covered ++ [hi (crc16 covered), lo (crc16 covered), trailer0, trailer1]

/-- The 10 bytes of `ACK(pid, serial)` (Table R68, Pseudocode R136). -/
def ackBytes (pid s0 s1 : Byte) : Bytes := sealResponse (ackCovered pid s0 s1)

/-- The 16 bytes of a time-calibration response with the six time bytes `time` (Table R69, Pseudocode
R137). -/
def timecalBytes (time : Bytes) (s0 s1 : Byte) : Bytes := sealResponse (timecalCovered time s0 s1)

end Sys2Proof
end

