-- ==== Sys2Proof/WellFormed.lean ====
section
/-! DEFINITION. Which instructions are well formed: the operand ranges the spec gives each row of the
opcode table. The meanings do not test this; the decoder answers only well-formed instructions. -/

namespace Sys2Proof

/-- The bytes after the protocol id are as many as `len` claims: `frameLength - 4` (30_encoding.md R60). -/
def tailFits (len : Byte) (tail : Bytes) : Bool := tail.length == len.toNat + 1

/-- A byte sequence that has the form of an emitted frame: sync, and as many bytes as its length byte
claims (30_encoding.md R60, R61; 40_framer.md R97). -/
def isFrame : Bytes → Bool
  | a :: b :: len :: rest => a == syncByte && b == syncByte && rest.length + 3 == frameLength len
  | _ => false

/-- An instruction's operands are ones the spec admits. -/
def Instr.wellFormed : Instr → Bool
  | .login len tail => tailFits len tail
  | .heartbeat len tail => tailFits len tail
  | .addrCn len tail => tailFits len tail
  | .respOnline len tail => tailFits len tail
  | .gps len tail => tailFits len tail
  | .alarm len tail => tailFits len tail
  | .id27 len tail => tailFits len tail
  | .lbsMulti len tail => tailFits len tail
  | .addrReq len tail => tailFits len tail
  | .onlineCmd len tail => tailFits len tail
  | .timeCal len tail => tailFits len tail
  | .infoXfer len tail => tailFits len tail
  | .addrEn len tail => tailFits len tail
  | .gpsA0 len tail => tailFits len tail
  | .lbs4g len tail => tailFits len tail
  | .fenceAlarm len tail => tailFits len tail
  -- the lowest-priority row: the ids no other row has (R159)
  | .other len pid tail => tailFits len tail && !namedPids.contains pid
  -- a != 78 or b != 78 (R94)
  | .nonsync a b => !(a == syncByte && b == syncByte)
  -- "p: pid of the inbound frame, one of ACK_SET" (opcode_table.json)
  | .ack pid _ _ => ackSet.contains pid
  | .timecalRsp _ _ now => now.inRange
  | .reset => true
  | .feed _ => true
  | .fAppend _ => true
  | .fShort => true
  | .fSkip => true
  | .fLen => true
  | .fWait => true
  | .fEmit => true
  | .fCompact => true
  -- "an emitted frame f with 5 <= L <= 260" (R100)
  | .extract f => isFrame f
  | .crc16 _ => true
  | .crcInit => true
  | .crcByte _ => true
  | .crcFinal => true
  -- `now` is read only when pid = 0x8A (R135)
  | .build pid _ _ now => pid != timecalId || now.inRange
  | .process f => isFrame f

end Sys2Proof
end

