-- ==== Sys2Proof/Decode.lean ====
section
/-! DEFINITION. The decoder, total on any bytes and rejecting by name, and the encoder, both from the
encodings of spec/30_encoding.md (R60, R67 to R72) and spec/opcode_table.json. -/

namespace Sys2Proof

/-- Why the bytes at the scan offset are no complete instruction yet. Neither is an error: both are the
framing stall `COND_a` (60_exceptions.md R202). -/
inductive Reject where
  /-- Fewer than 6 bytes are available (40_framer.md R92). -/
  | short
  /-- The sync matches and the frame of `fl` bytes is not complete (R96). -/
  | incomplete (fl : Nat)
deriving DecidableEq, Repr

/-- The decoder's answer: an instruction with the bytes after it, or a rejection by name. -/
inductive Decoded where
  | instr (i : Instr) (rest : Bytes)
  | reject (r : Reject)
deriving DecidableEq, Repr

/-- The protocol-id map, Table R70: the frame kind that a protocol id selects. -/
def frameInstr (len pid : Byte) (tail : Bytes) : Instr :=
  if pid = 0x01 then .login len tail
  else if pid = 0x13 then .heartbeat len tail
  else if pid = 0x17 then .addrCn len tail
  else if pid = 0x21 then .respOnline len tail
  else if pid = 0x22 then .gps len tail
  else if pid = 0x26 then .alarm len tail
  else if pid = 0x27 then .id27 len tail
  else if pid = 0x28 then .lbsMulti len tail
  else if pid = 0x2A then .addrReq len tail
  else if pid = 0x80 then .onlineCmd len tail
  else if pid = 0x8A then .timeCal len tail
  else if pid = 0x94 then .infoXfer len tail
  else if pid = 0x97 then .addrEn len tail
  else if pid = 0xA0 then .gpsA0 len tail
  else if pid = 0xA1 then .lbs4g len tail
  else if pid = 0xA4 then .fenceAlarm len tail
  else .other len pid tail

/-- Decodes the bytes available at the scan offset. The tests are made in the order of 40_framer.md R93:
six bytes, sync, length. A `NONSYNC` pair takes one byte from the stream (R94), a frame `len + 5`
(30_encoding.md R71). -/
def decode (bs : Bytes) : Decoded :=
  if bs.length < minAvail then .reject .short
  else
    match bs with
    | a :: b :: len :: pid :: more =>
      if a = syncByte ∧ b = syncByte then
        if bs.length < frameLength len then .reject (.incomplete (frameLength len))
        else .instr (frameInstr len pid (more.take (len.toNat + 1))) (more.drop (len.toNat + 1))
      else .instr (.nonsync a b) (b :: len :: pid :: more)
    | _ => .reject .short

/-- Decodes one of the two response forms (Tables R68, R69). The checksum bytes are not an operand (they
follow from the others) and are not compared; the block itself never parses a response (R162). -/
def decodeResponse (bs : Bytes) : Option Instr :=
  match bs with
  | [a, b, len, pid, s0, s1, _, _, t0, t1] =>
    if a = syncByte ∧ b = syncByte ∧ len = ackLen ∧ pid ∈ ackSet ∧ t0 = trailer0 ∧ t1 = trailer1 then
      some (.ack pid s0 s1)
    else none
  | [a, b, len, pid, y, m, d, h, i, e, s0, s1, _, _, t0, t1] =>
    if a = syncByte ∧ b = syncByte ∧ len = timecalLen ∧ pid = timecalId ∧ t0 = trailer0 ∧ t1 = trailer1 then
      match unbcd y, unbcd m, unbcd d, unbcd h, unbcd i, unbcd e with
      | some yy, some mo, some dd, some hh, some mi, some ss => some (.timecalRsp s0 s1 ⟨yy, mo, dd, hh, mi, ss⟩)
      | _, _, _, _, _, _ => none
    else none
  | _ => none

/-- The bytes of a frame with the given `len`, protocol id and following bytes (Table R60). -/
def frameBytes (len pid : Byte) (tail : Bytes) : Bytes := syncByte :: syncByte :: len :: pid :: tail

/-- The encoder: the bytes of an instruction that has an encoding. An operation of 00_scope.md R10 "has no
bit encoding" (opcode_table.json). A `NONSYNC` pair is two bytes of the stream, of which the instruction
takes the first. -/
def encode : Instr → Option Bytes
  | .login len tail => some (frameBytes len 0x01 tail)
  | .heartbeat len tail => some (frameBytes len 0x13 tail)
  | .addrCn len tail => some (frameBytes len 0x17 tail)
  | .respOnline len tail => some (frameBytes len 0x21 tail)
  | .gps len tail => some (frameBytes len 0x22 tail)
  | .alarm len tail => some (frameBytes len 0x26 tail)
  | .id27 len tail => some (frameBytes len 0x27 tail)
  | .lbsMulti len tail => some (frameBytes len 0x28 tail)
  | .addrReq len tail => some (frameBytes len 0x2A tail)
  | .onlineCmd len tail => some (frameBytes len 0x80 tail)
  | .timeCal len tail => some (frameBytes len 0x8A tail)
  | .infoXfer len tail => some (frameBytes len 0x94 tail)
  | .addrEn len tail => some (frameBytes len 0x97 tail)
  | .gpsA0 len tail => some (frameBytes len 0xA0 tail)
  | .lbs4g len tail => some (frameBytes len 0xA1 tail)
  | .fenceAlarm len tail => some (frameBytes len 0xA4 tail)
  | .other len pid tail => some (frameBytes len pid tail)
  | .nonsync a b => some [a, b]
  | .ack pid s0 s1 => some (ackBytes pid s0 s1)
  | .timecalRsp s0 s1 now => some (timecalBytes now.bcdBytes s0 s1)
  | .reset => none
  | .feed _ => none
  | .fAppend _ => none
  | .fShort => none
  | .fSkip => none
  | .fLen => none
  | .fWait => none
  | .fEmit => none
  | .fCompact => none
  | .extract _ => none
  | .crc16 _ => none
  | .crcInit => none
  | .crcByte _ => none
  | .crcFinal => none
  | .build _ _ _ _ => none
  | .process _ => none

/-- Whether an instruction is a form of the inbound stream (a frame kind or `NONSYNC`), which the pass
decodes from `BUF`; the others are operations and response forms. -/
def Instr.isStreamForm : Instr → Bool
  | .login _ _ => true
  | .heartbeat _ _ => true
  | .addrCn _ _ => true
  | .respOnline _ _ => true
  | .gps _ _ => true
  | .alarm _ _ => true
  | .id27 _ _ => true
  | .lbsMulti _ _ => true
  | .addrReq _ _ => true
  | .onlineCmd _ _ => true
  | .timeCal _ _ => true
  | .infoXfer _ _ => true
  | .addrEn _ _ => true
  | .gpsA0 _ _ => true
  | .lbs4g _ _ => true
  | .fenceAlarm _ _ => true
  | .other _ _ _ => true
  | .nonsync _ _ => true
  | .ack _ _ _ => false
  | .timecalRsp _ _ _ => false
  | .reset => false
  | .feed _ => false
  | .fAppend _ => false
  | .fShort => false
  | .fSkip => false
  | .fLen => false
  | .fWait => false
  | .fEmit => false
  | .fCompact => false
  | .extract _ => false
  | .crc16 _ => false
  | .crcInit => false
  | .crcByte _ => false
  | .crcFinal => false
  | .build _ _ _ _ => false
  | .process _ => false

/-- The `n` bytes of an `8 * n`-bit word as the table numbers them, most significant byte first
(30_encoding.md R67: bits 31..24 of a header word are frame byte 0). -/
def wordBytes : Nat → Nat → Bytes
  | 0, _ => []
  | n + 1, w => BitVec.ofNat 8 (w / 256 ^ n) :: wordBytes n w

/-- How many bytes of the stream the instruction that begins with `own` needs before the pass decodes it:
the `len + 5` of a frame, and never fewer than 6 (30_encoding.md R71, 40_framer.md R92). A `len` byte that
the word does not reach is zero. -/
def bytesNeeded (own : Bytes) : Nat := max minAvail (frameLength (own.getD 2 0))

/-- The bytes of a table word in the stream: the word's own bytes, then zero bytes to the end of the
instruction (log 12). -/
def streamOfWord (nbits w : Nat) : Bytes :=
  let own := wordBytes (nbits / 8) w
  own ++ List.replicate (bytesNeeded own - own.length) 0

/-- What the decoder reads from a word of the opcode table. A row of 80 or 128 bits is a response form
(opcode_table.json "response80", "response128"); the others stand in the inbound stream. -/
def decodeTableWord (nbits w : Nat) : Option Instr :=
  if nbits = 80 ∨ nbits = 128 then decodeResponse (wordBytes (nbits / 8) w)
  else
    match decode (streamOfWord nbits w) with
    | .instr i _ => some i
    | .reject _ => none

end Sys2Proof
end

