-- ==== Sys2Proof/Config.lean ====
section
/-! DEFINITION. The free values: what the spec leaves open. Each is an opaque constant, so that nothing
can be proved of it but that it is some value of its type. The block's fixed constants are in
Sys2Proof/Machine/Params.lean. -/

namespace Sys2Proof

/-- The sample of `NOW` taken when draw `n` is made and the platform's port holds none: "a free input of
each BUILD" under no law (10_state.md R30, 93_implementation_defined.md U7; log 8). -/
opaque Config.now (n : Nat) : Now

/-- Time byte `i` (0..5) of a time-calibration response built, at draw `n`, from a `NOW` with a field
above 99: "the six time bytes of that response ... are unspecified" (60_exceptions.md R207; log 9). -/
opaque Config.unspecifiedTimeByte (n i : Nat) : Byte

/-- What `RESET` leaves in `FL`, "left unspecified" (70_reset_and_hazards.md R225; log 4). -/
opaque Config.resetFl : Word9

/-- What `RESET` leaves in `CRC` (R225; log 4). -/
opaque Config.resetCrc : Word16

/-- What `RESET` leaves in `RSP[i]` (R225; log 4). -/
opaque Config.resetRspByte (i : Nat) : Byte

/-- What `RESET` leaves in `RSP_LEN`, as an index into the three lengths 0, 10, 16 that 10_state.md
admits (R225; log 4). -/
opaque Config.resetRspLenIndex : Fin 3

/-- What `RESET` leaves in `PID` (R225; log 4). -/
opaque Config.resetPid : Byte

/-- What `RESET` leaves in `SER[0]` (R225; log 4). -/
opaque Config.resetSer0 : Byte

/-- What `RESET` leaves in `SER[1]` (R225; log 4). -/
opaque Config.resetSer1 : Byte

/-- What `RESET` leaves in `SER_VALID` (R225; log 4). -/
opaque Config.resetSerValid : Bool

end Sys2Proof
end

