-- ==== Sys2Proof/Machine/Memory.lean ====
section
/-! DEFINITION. The block's one memory, the stream buffer `BUF` (spec/10_state.md R20, spec/20_memory.md
R40, R47, R56), as a list of (index, byte) cells with strictly rising indices. An unlisted index reads as
nothing: the address space is the indices that hold data, and no rule reads another (log 2). -/

namespace Sys2Proof.Machine

/-- `BUF` as cells in index order. -/
abbrev Memory := List Host.Cell

/-- What an unlisted index reads as: no byte, for no such index exists (R40). -/
def Memory.unlisted : Option Byte := none

/-- `BUF[a]`, one byte. -/
def Memory.read : Memory → Nat → Option Byte
  | [], _ => Memory.unlisted
  | (x, b) :: m, a => if x = a then some b else Memory.read m a

/-- `BUF[a] <- b`, keeping the cells in index order. -/
def Memory.write : Memory → Nat → Byte → Memory
  | [], a, b => [(a, b)]
  | (x, c) :: m, a, b =>
    if a < x then (a, b) :: (x, c) :: m
    else if a = x then (a, b) :: m
    else (x, c) :: Memory.write m a b

/-- `BUF[a ..] <- bs`, the append of `F.APPEND` (address form (b) of R56). -/
def Memory.writeRun : Memory → Nat → Bytes → Memory
  | m, _, [] => m
  | m, a, b :: bs => Memory.writeRun (Memory.write m a b) (a + 1) bs

/-- `BUF[a .. a+n-1]`, a run of bytes read at increasing indices (address form (a) of R56): `none` when
one of the indices holds nothing. -/
def Memory.readRun : Memory → Nat → Nat → Option Bytes
  | _, _, 0 => some []
  | [], _, _ + 1 => none
  | (x, b) :: m, a, n + 1 =>
    if x < a then Memory.readRun m a (n + 1)
    else if x = a then (Memory.readRun m (a + 1) n).map (b :: ·)
    else none

/-- The block move of `F.COMPACT` (address form (c) of R56): the bytes at `off .. len-1` become
`0 .. len-off-1`; every other index ceases to exist. -/
def Memory.moveDown (m : Memory) (off len : Nat) : Memory :=
  (m.filter fun c => decide (off ≤ c.1) && decide (c.1 < len)).map fun c => (c.1 - off, c.2)

/-- The canonical form: indices strictly rising. -/
def Memory.wf : Memory → Bool
  | [] => true
  | [_] => true
  | (x, _) :: (y, c) :: m => decide (x < y) && Memory.wf ((y, c) :: m)

/-- Cells for consecutive indices from `a`. -/
def Memory.cellsFrom : Nat → Bytes → Memory
  | _, [] => []
  | a, b :: bs => (a, b) :: Memory.cellsFrom (a + 1) bs

/-- The memory that holds exactly the given bytes at indices 0, 1, 2, … -/
def Memory.ofBytes (bs : Bytes) : Memory := Memory.cellsFrom 0 bs

/-- The bytes held, in index order. -/
def Memory.bytes (m : Memory) : Bytes := m.map Prod.snd

end Sys2Proof.Machine
end

