-- ==== Sys2Proof/Machine/State.lean ====
section
/-! DEFINITION. The machine's state as plain data (spec/10_state.md), its faults and refusals, and the
state after reset (spec/70_reset_and_hazards.md R225, R226). -/

namespace Sys2Proof.Machine

/-- An event of the output trace (00_scope.md R8, 20_memory.md R50). -/
inductive Event where
  /-- `FRM(f)`: an emitted frame, sync through trailer as received (40_framer.md R97). -/
  | frm (f : Bytes)
  /-- `RSP(r)`: a response (42_response.md R160). -/
  | rsp (r : Bytes)
deriving DecidableEq, Repr

/-- Which step comes next: the control position inside `FEED` (Pseudocode R90, Table R108) and
`PROCESS` (Pseudocode R160). The spec implies it by "control goes to F.COMPACT", "the loop continues with
step 1" (log 6). -/
inductive Ctl where
  /-- Between operations (10_state.md R25). -/
  | rest
  /-- At the head of the loop, before the test of `F.SHORT`. -/
  | scan
  /-- Six bytes are available; before the sync test of `F.SKIP`. -/
  | sync
  /-- The sync matched; before `F.LEN`. -/
  | len
  /-- `FL` is written; before the test of `F.WAIT`. -/
  | wait
  /-- The frame is complete; before `F.EMIT`. -/
  | emit
  /-- The frame `f` has just been emitted; before `PROCESS(f)`. -/
  | process (f : Bytes)
  /-- The loop has ended; before `F.COMPACT`. -/
  | compact
deriving DecidableEq, Repr

/-- What the last value-returning operation returned to its caller (log 11). -/
inductive Result where
  /-- No such operation has run. -/
  | nothing
  /-- The `u16` that `CRC16` or `CRC.FINAL` returned (41_crc.md R120, R123). -/
  | checksum (c : Word16)
  /-- What `BUILD`, `ACK` or `TIMECAL_RSP` returned; `none` is "return nothing" (42_response.md R135). -/
  | response (r : Option Bytes)
deriving DecidableEq, Repr

/-- Everything the spec gives the machine, then the model's own fields. -/
structure State where
  /-- `BUF` (10_state.md R20). -/
  buf : Memory
  /-- `BUF_LEN` (R21). -/
  bufLen : Nat
  /-- `OFF`, the scan offset, the block's program counter (R22). -/
  off : Nat
  /-- `FL` (R23). -/
  fl : Word9
  /-- `CRC` (R27). -/
  crc : Word16
  /-- `RSP[0..15]` (R28). -/
  rsp : Bytes
  /-- `RSP_LEN` (R28). -/
  rspLen : Nat
  /-- `PID` (R29). -/
  pid : Byte
  /-- `SER[0]` (R29). -/
  ser0 : Byte
  /-- `SER[1]` (R29). -/
  ser1 : Byte
  /-- `SER_VALID` (R29). -/
  serValid : Bool
  /-- The control position (log 6). -/
  ctl : Ctl
  /-- The output trace, oldest event first (20_memory.md R50; log 10). -/
  trace : List Event
  /-- The value the last value-returning operation returned (model's own, log 11). -/
  result : Result
  /-- What the platform will apply, in order (model's own, log 7). -/
  pending : List Instr
  /-- The next values of the input `NOW`, in order (model's own, log 8). -/
  nowPort : List Now
  /-- How many free values have been drawn (model's own, log 8, log 9). -/
  draws : Nat
deriving DecidableEq, Repr

/-- Why the machine stops. The spec's block never does (60_exceptions.md R200); both reasons are accesses
to what does not exist, which no framer pass makes. -/
inductive Fault where
  /-- Raised by `F.SKIP`, `F.LEN`, `F.EMIT` and the fetch of a step when an index to be read holds no
  byte of `BUF` (20_memory.md R40, R47); `index` is the first index of the access. Safe: the spec makes
  no such read (log 2). -/
  | outsideBuffer (index : Nat)
  /-- Raised by `EXTRACT` and `PROCESS` of fewer than 4 bytes, which have no byte 3; the operand must be
  an emitted frame of 5 to 260 bytes (40_framer.md R100). Safe (log 16). -/
  | frameTooShort (length : Nat)
deriving DecidableEq, Repr

/-- Why a step has no meaning. -/
inductive Refusal where
  /-- Raised by an arm of `exec` for an instruction without a meaning, by its mnemonic; no arm does now.
  Safe. -/
  | notModelled (mnemonic : String)
deriving DecidableEq, Repr

/-- The state after reset: `BUF_LEN = 0`, `OFF = 0`, an empty trace (R225, R226), at rest with nothing to
run (R228). The registers the spec leaves unspecified hold zero (DESIGN CHOICE, unsafe, log 3); `RESET`
applied to this state may give them other values (DESIGN CHOICE, log 22). -/
def State.reset : State where
  buf := []
  bufLen := 0
  off := 0
  fl := 0
  crc := 0
  rsp := List.replicate 16 0
  rspLen := 0
  pid := 0
  ser0 := 0
  ser1 := 0
  serValid := false
  ctl := .rest
  trace := []
  result := .nothing
  pending := []
  nowPort := []
  draws := 0

end Sys2Proof.Machine
end

