-- ==== Sys2Proof/Machine/Ops.lean ====
section
/-! DEFINITION. The named operations over the buffer, the transient registers and the ports. The spec has
no trap, no trap entry and no return from one (spec/60_exceptions.md R200, R211), so no operation here
takes an exception: every condition of Table R201 is an outcome of the step that meets it. -/

namespace Sys2Proof.Machine

/-- The outcome of an operation. -/
abbrev Outcome := Host.Outcome State Fault Refusal

/-- Sequential composition: the first operation, then the second on the state it leaves; a fault or a
refusal ends both. -/
def andThen (o : Outcome) (k : State → Outcome) : Outcome :=
  match o with
  | .next s => k s
  | .fault r => .fault r
  | .refused r => .refused r

/-! ### The stream buffer -/

/-- `avail = BUF_LEN - OFF` (Pseudocode R90). -/
def State.avail (s : State) : Nat := s.bufLen - s.off

/-- The bytes `BUF` holds, in index order. -/
def State.bytes (s : State) : Bytes := Memory.bytes s.buf

/-- `BUF[a]`; a fault when there is no such index (20_memory.md R40). -/
def withByte (s : State) (a : Nat) (k : Byte → Outcome) : Outcome :=
  match Memory.read s.buf a with
  | some b => k b
  | none => .fault (.outsideBuffer a)

/-- `BUF[a .. a+n-1]`; a fault when one of the indices does not exist. -/
def withRun (s : State) (a n : Nat) (k : Bytes → Outcome) : Outcome :=
  match Memory.readRun s.buf a n with
  | some bs => k bs
  | none => .fault (.outsideBuffer a)

/-- The store of `F.APPEND`: the chunk at `BUF_LEN ..`, and `BUF_LEN` grows by its length
(40_framer.md R91). -/
def State.append (s : State) (chunk : Bytes) : State :=
  { s with buf := Memory.writeRun s.buf s.bufLen chunk, bufLen := s.bufLen + chunk.length }

/-- The move of `F.COMPACT`: the bytes from `OFF` on become the buffer, `OFF <- 0` (R98). -/
def State.compact (s : State) : State :=
  { s with buf := Memory.moveDown s.buf s.off s.bufLen, bufLen := s.bufLen - s.off, off := 0 }

/-- Moves the control position. -/
def State.goto (s : State) (c : Ctl) : State := { s with ctl := c }

/-! ### The output trace -/

/-- `emit FRM(f)` (00_scope.md R8). -/
def State.emitFrame (s : State) (f : Bytes) : State := { s with trace := s.trace ++ [.frm f] }

/-- `emit RSP(r)`. -/
def State.emitResponse (s : State) (r : Bytes) : State := { s with trace := s.trace ++ [.rsp r] }

/-- `emit RSP(r)` where there is a response (Pseudocode R160: "if r != none"). -/
def State.emitOptional (s : State) (r : Option Bytes) : State :=
  match r with
  | some bs => s.emitResponse bs
  | none => s

/-- Hands a value to the caller of an operation (log 11). -/
def State.handBack (s : State) (r : Result) : State := { s with result := r }

/-! ### The response registers -/

/-- `RSP[0 ..] <- bs`: the first bytes of `RSP` replaced, the others kept. -/
def State.writeRsp (s : State) (bs : Bytes) : State := { s with rsp := bs ++ s.rsp.drop bs.length }

/-- `CRC16` of the bytes a response covers, run through the `CRC` register: `CRC.INIT`, one `CRC.BYTE` a
byte; `CRC.FINAL` reads the register (41_crc.md R120, R127). -/
def State.runCrc (s : State) (m : Bytes) : State := { s with crc := crcRegister m }

/-- The response that `BUILD` assembles in `RSP`, with its length in `RSP_LEN` (42_response.md R136,
R137): the covered bytes between the sync and the checksum. -/
def State.assemble (s : State) (covered : Bytes) : State :=
  { (s.runCrc covered).writeRsp (sealResponse covered) with rspLen := (sealResponse covered).length }

/-- `return RSP[0 .. RSP_LEN-1]`. -/
def State.response (s : State) : Bytes := s.rsp.take s.rspLen

/-- `ACK(pid, serial)`: `RSP`, `RSP_LEN` and `CRC` written (R136). -/
def State.buildAck (s : State) (pid s0 s1 : Byte) : State := s.assemble (ackCovered pid s0 s1)

/-- The six time bytes for `now`: its fields in packed BCD, or, when a field is above 99, six free values
of one draw (42_response.md R141, 60_exceptions.md R207; log 9). -/
def State.timeBytes (s : State) (now : Now) : Bytes :=
  if now.inRange then now.bcdBytes
  else (List.range 6).map (Config.unspecifiedTimeByte s.draws)

/-- The draw counter after `timeBytes`. -/
def State.drawTime (s : State) (now : Now) : State :=
  if now.inRange then s else { s with draws := s.draws + 1 }

/-- `TIMECAL_RSP(serial, now)`: `RSP`, `RSP_LEN` and `CRC` written (R137). -/
def State.buildTimecal (s : State) (s0 s1 : Byte) (now : Now) : State :=
  (s.drawTime now).assemble (timecalCovered (s.timeBytes now) s0 s1)

/-- "return nothing": `RSP_LEN <- 0` (R138). -/
def State.buildNothing (s : State) : State := { s with rspLen := 0 }

/-- The state after `BUILD(pid, serial, now)` (Pseudocode R135), the two tests in its order. -/
def State.buildState (s : State) (pid s0 s1 : Byte) (now : Now) : State :=
  if pid = timecalId then s.buildTimecal s0 s1 now
  else if pid ∈ ackSet then s.buildAck pid s0 s1
  else s.buildNothing

/-- What `BUILD` returns, read from the state it leaves: `RSP[0 .. RSP_LEN-1]`, or nothing when
`RSP_LEN` is 0 (10_state.md R28). -/
def State.built (s : State) : Option Bytes := if s.rspLen = 0 then none else some s.response

/-! ### The input NOW -/

/-- The value of `NOW` that a sample reads: the next one on the platform's port, or a free value when the
port holds none (10_state.md R30; log 8). -/
def State.nowValue (s : State) : Now :=
  match s.nowPort with
  | t :: _ => t
  | [] => Config.now s.draws

/-- The state after one sample of `NOW`. -/
def State.nowTaken (s : State) : State :=
  match s.nowPort with
  | _ :: ts => { s with nowPort := ts }
  | [] => { s with draws := s.draws + 1 }

end Sys2Proof.Machine
end

