-- ==== Sys2Proof/Machine/Crc.lean ====
section
/-! DEFINITION. The checksum family: `CRC16` and its three steps over the transient register `CRC`
(spec/41_crc.md R120 to R123). `CRC.FINAL` reads the register and does not write it (spec/10_state.md
section 1). -/

namespace Sys2Proof.Machine

/-- `CRC.INIT`: `CRC <- 0xFFFF` (R121). -/
def execCrcInit (s : State) : Outcome := .next { s with crc := crcInitValue }

/-- `CRC.BYTE(b)` (R122). Applied by itself it continues from whatever `CRC` holds (log 21). -/
def execCrcByte (b : Byte) (s : State) : Outcome := .next { s with crc := crcByte s.crc b }

/-- `CRC.FINAL`: the complement of the register is the result (R123). Applied by itself it reads whatever
`CRC` holds (log 21). -/
def execCrcFinal (s : State) : Outcome := .next (s.handBack (.checksum (crcFinish s.crc)))

/-- `CRC16(m)`: init, the bytes in index order, final (Pseudocode R120). -/
def execCrc16 (m : Bytes) (s : State) : Outcome :=
  let t := s.runCrc m
  .next (t.handBack (.checksum (crcFinish t.crc)))

end Sys2Proof.Machine
end

