-- ==== Sys2Proof/Machine/Operands.lean ====
section
/-! DEFINITION. Where the operands stand: the fields of a frame (spec/30_encoding.md R60 to R66), the
extraction of protocol id and serial (spec/40_framer.md R100, R101), and the bytes the fetch of a step
sees (spec/20_memory.md R54). -/

namespace Sys2Proof.Machine

/-- The two serial bytes of a frame of `L` bytes, at indices `L - 6` and `L - 5`; none when `L < 6`
(30_encoding.md R66, 40_framer.md R100, R101). -/
def frameSerial (f : Bytes) : Option (Byte × Byte) :=
  if serialBack ≤ f.length then
    some (f.getD (f.length - serialBack) 0, f.getD (f.length - serialBack + 1) 0)
  else none

/-- The content of a frame: its bytes `4 .. len`, `len - 3` of them (R62). The block never uses it. -/
def frameContent (f : Bytes) : Bytes := (f.drop 4).take (f.length - 8)

/-- The two checksum bytes, at `L - 4` and `L - 3` (R63). Carried, never tested (R74). -/
def frameChecksum (f : Bytes) : Bytes := (f.drop (f.length - 4)).take 2

/-- The two trailer bytes, at `L - 2` and `L - 1` (R64). Carried, never tested (R74). -/
def frameTrailer (f : Bytes) : Bytes := f.drop (f.length - 2)

/-- `PID`, `SER` and `SER_VALID` written from a frame whose byte 3 is `p` (Pseudocode R100): a frame
without a serial clears `SER_VALID` and leaves `SER` alone. -/
def State.setFields (s : State) (p : Byte) (f : Bytes) : State :=
  match frameSerial f with
  | some (a, b) => { s with pid := p, ser0 := a, ser1 := b, serValid := true }
  | none => { s with pid := p, serValid := false }

/-- The state after `F.LEN` and `F.EMIT` of the frame `78 78 len pid tail` at `OFF`: `FL` written, the frame
emitted as received, `OFF <- OFF + FL`, the loop continues with step 1 (40_framer.md R95, R97). -/
def State.afterEmit (s : State) (len pid : Byte) (tail : Bytes) : State :=
  { s.emitFrame (frameBytes len pid tail) with
    fl := frameLength9 len, off := s.off + frameLength len, ctl := .scan }

/-- The bytes from `OFF` to the end of the buffer, from which the next instruction is decoded. -/
def withFetch (s : State) (k : Bytes → Outcome) : Outcome := withRun s s.off s.avail k

end Sys2Proof.Machine
end

