-- ==== Sys2Proof/Machine/Flags.lean ====
section
/-! DEFINITION. The tests of the pass and the conditions they stand for. The block has no flag register
(spec/10_state.md R32): each test is "computed and consumed inside one iteration", and no condition is
stored or reported (spec/60_exceptions.md R201). -/

namespace Sys2Proof.Machine

/-- The test of `F.SHORT`: fewer than 6 bytes remain from `OFF` (40_framer.md R92). -/
def State.isShort (s : State) : Bool := decide (s.avail < minAvail)

/-- The test of `F.SKIP`: not both bytes are `78` (R94). -/
def isMismatch (a b : Byte) : Bool := a != syncByte || b != syncByte

/-- The test of `F.WAIT`: fewer than `FL` bytes remain from `OFF` (R96). -/
def State.isIncomplete (s : State) : Bool := decide (s.avail < s.fl.toNat)

/-- The conditions of Table R201 (60_exceptions.md). -/
inductive Condition where
  /-- `COND_a`, framing stall (R202). -/
  | framingStall
  /-- `COND_b`, framing desync (R203). -/
  | framingDesync
  /-- `COND_c`, decode shortfall: only the decoder outside the hardware meets it (R204). -/
  | decodeShortfall
  /-- `COND_d`, unknown protocol: the id has no entry in Table R70 (R201, R205). -/
  | unknownProtocol
  /-- `COND_e`, serial absent (R206). -/
  | serialAbsent
  /-- `COND_f`, time out of range (R207). -/
  | timeOutOfRange
  /-- `COND_g`, buffer overflow: cannot occur (R208). -/
  | bufferOverflow
deriving DecidableEq, Repr

/-- The condition an iteration of the pass meets on the bytes at `OFF`, by the order of R93 and R210;
`none` when it emits a frame. -/
def passCondition (bs : Bytes) : Option Condition :=
  match decode bs with
  | .reject _ => some .framingStall
  | .instr (.nonsync _ _) _ => some .framingDesync
  | .instr _ _ => none

/-- The condition `PROCESS(f)` meets, in the order of R210: serial absent first, then the protocol id,
then, for `8A` only, the range of the sampled time. The cause of `COND_d` is an id without an entry in
Table R70 (Table R201); the five named ids without a response meet no condition, although they have "the
same outcome" (R205). -/
def processCondition (f : Bytes) (now : Now) : Option Condition :=
  if (frameSerial f).isNone then some .serialAbsent
  else if f.getD 3 0 = timecalId then (if now.inRange then none else some .timeOutOfRange)
  else if f.getD 3 0 ∈ namedPids then none
  else some .unknownProtocol

end Sys2Proof.Machine
end

