-- ==== Sys2Proof/Machine/Response.lean ====
section
/-! DEFINITION. The response family: `EXTRACT`, the response forms `ACK` and `TIMECAL_RSP`, `BUILD` and
`PROCESS` (spec/40_framer.md R100, R101; spec/42_response.md R135 to R142, R160). -/

namespace Sys2Proof.Machine

/-- `EXTRACT(f)` (Pseudocode R100): `PID` is byte 3, which every emitted frame has. -/
def extractFields (f : Bytes) (s : State) : Outcome :=
  match f[3]? with
  | some p => .next (s.setFields p f)
  | none => .fault (.frameTooShort f.length)

/-- `PROCESS(f)` (Pseudocode R160): `EXTRACT`; a frame without a serial gets no response; `NOW` is sampled
only when `PID` is `8A`; `BUILD`; the response, if any, is emitted. -/
def processFrame (f : Bytes) (s : State) : Outcome :=
  andThen (extractFields f s) fun s1 =>
    if s1.serValid then
      let s2 := if s1.pid = timecalId then s1.nowTaken else s1
      let s3 := s2.buildState s1.pid s1.ser0 s1.ser1 s1.nowValue
      .next (s3.emitOptional s3.built)
    else .next s1

/-- `EXTRACT`. -/
def execExtract (f : Bytes) (s : State) : Outcome := extractFields f s

/-- `PROCESS`. -/
def execProcess (f : Bytes) (s : State) : Outcome := processFrame f s

/-- `ACK(pid, serial)`: "return RSP[0 .. 9]" (R136). -/
def execAck (pid s0 s1 : Byte) (s : State) : Outcome :=
  let t := s.buildAck pid s0 s1
  .next (t.handBack (.response (some t.response)))

/-- `TIMECAL_RSP(serial, now)`: "return RSP[0 .. 15]" (R137). -/
def execTimecalRsp (s0 s1 : Byte) (now : Now) (s : State) : Outcome :=
  let t := s.buildTimecal s0 s1 now
  .next (t.handBack (.response (some t.response)))

/-- `BUILD(pid, serial, now)` (R135). -/
def execBuild (pid s0 s1 : Byte) (now : Now) (s : State) : Outcome :=
  let t := s.buildState pid s0 s1 now
  .next (t.handBack (.response t.built))

end Sys2Proof.Machine
end

