-- ==== Sys2Proof/Machine/Framer.lean ====
section
/-! DEFINITION. The framer family: `FEED` and its seven steps (spec/40_framer.md R90 to R98, R108). Each
step moves the control position as Table R108 says. -/

namespace Sys2Proof.Machine

/-- `F.APPEND` (R91). -/
def execFAppend (chunk : Bytes) (s : State) : Outcome := .next (s.append chunk)

/-- `F.SHORT` (R92): with fewer than 6 bytes "the loop ends and control goes to F.COMPACT"; otherwise the
sync test is next (R93). `OFF` is not changed. -/
def execFShort (s : State) : Outcome := .next (s.goto (if s.isShort then .compact else .sync))

/-- `F.SKIP` (R94): on a mismatch `OFF <- OFF + 1` and the loop continues with step 1; on a match the
length is next. -/
def execFSkip (s : State) : Outcome :=
  withByte s s.off fun a =>
  withByte s (s.off + 1) fun b =>
    if isMismatch a b then .next ({ s with off := s.off + 1 }.goto .scan) else .next (s.goto .len)

/-- `F.LEN` (R95): `FL <- zext_9(BUF[OFF+2]) + 5`. -/
def execFLen (s : State) : Outcome :=
  withByte s (s.off + 2) fun l => .next ({ s with fl := frameLength9 l }.goto .wait)

/-- `F.WAIT` (R96): with fewer than `FL` bytes "the loop ends and control goes to F.COMPACT"; otherwise
the frame is emitted next. -/
def execFWait (s : State) : Outcome := .next (s.goto (if s.isIncomplete then .compact else .emit))

/-- `F.EMIT` (R97): emits `BUF[OFF .. OFF+FL-1]`, `OFF <- OFF + FL`; the frame goes to `PROCESS`
(42_response.md R160). -/
def execFEmit (s : State) : Outcome :=
  withRun s s.off s.fl.toNat fun f =>
    .next ({ s.emitFrame f with off := s.off + s.fl.toNat }.goto (.process f))

/-- `F.COMPACT` (R98): the buffer from `OFF` on, `OFF <- 0`; the operation `FEED` is done. -/
def execFCompact (s : State) : Outcome := .next (s.compact.goto .rest)

/-- One iteration of the loop of Pseudocode R90, the steps in the order of R93, with `PROCESS` of the
frame it emits (R160): it ends at the head of the loop, or before `F.COMPACT`. -/
def passIteration (s : State) : Outcome :=
  andThen (execFShort s) fun s1 =>
    if s1.ctl = .compact then .next s1
    else andThen (execFSkip s1) fun s2 =>
      if s2.ctl = .scan then .next s2
      else andThen (execFLen s2) fun s3 =>
        andThen (execFWait s3) fun s4 =>
          if s4.ctl = .compact then .next s4
          else andThen (execFEmit s4) fun s5 =>
            match s5.ctl with
            | .process f => processFrame f (s5.goto .scan)
            | _ => .next s5

/-- The loop of Pseudocode R90, at most `n` iterations. R102: `BUF_LEN + 1` are enough. -/
def passLoop : Nat → State → Outcome
  | 0, s => .next s
  | n + 1, s => andThen (passIteration s) fun s1 => if s1.ctl = .compact then .next s1 else passLoop n s1

/-- The entry of `FEED`: `F.APPEND`, `OFF <- 0`, and the loop is entered (Pseudocode R90, Table R108). -/
def State.enterFeed (s : State) (chunk : Bytes) : State := { s.append chunk with off := 0 }.goto .scan

/-- `FEED(chunk)`, the whole operation as one transition (R90; 20_memory.md R48): entry, loop,
`F.COMPACT`. -/
def execFeed (chunk : Bytes) (s : State) : Outcome :=
  andThen (passLoop ((s.enterFeed chunk).bufLen + 1) (s.enterFeed chunk)) fun t => .next (t.compact.goto .rest)

end Sys2Proof.Machine
end

