-- ==== Sys2Proof/Machine/Frames.lean ====
section
/-! DEFINITION. The frame kinds and `NONSYNC`: what the block does with a complete frame at the scan
offset (spec/40_framer.md R94, R95, R97; spec/42_response.md R143 to R159). One definition per row of the
opcode table, over three shared operations. -/

namespace Sys2Proof.Machine

/-- `F.LEN`, `F.EMIT` and `EXTRACT` of the frame `78 78 len pid tail`: the frame emitted, then the fields
extracted (R95, R97, R100). -/
def State.takeFrame (s : State) (len pid : Byte) (tail : Bytes) : State :=
  (s.afterEmit len pid tail).setFields pid (frameBytes len pid tail)

/-- The response `ACK(pid, serial)` to a frame that has a serial; none to a frame of 5 bytes
(42_response.md R136, R160; 40_framer.md R101). -/
def State.answerAck (s : State) (pid : Byte) : State :=
  if s.serValid then
    let t := s.buildAck pid s.ser0 s.ser1
    t.emitResponse t.response
  else s

/-- The response `TIMECAL_RSP(serial, NOW)` to a frame that has a serial, `NOW` sampled here (R137, R153,
R160). -/
def State.answerTimecal (s : State) : State :=
  if s.serValid then
    let t := s.nowTaken.buildTimecal s.ser0 s.ser1 s.nowValue
    t.emitResponse t.response
  else s

/-- No response: "BUILD returns nothing" (R138); a frame of 5 bytes does not reach `BUILD` (R160). -/
def State.answerNothing (s : State) : State := if s.serValid then s.buildNothing else s

/-- `LOGIN` (R143): `BUILD` returns `ACK(0x01, serial)`. -/
def execLogin (len : Byte) (tail : Bytes) (s : State) : Outcome := .next ((s.takeFrame len 0x01 tail).answerAck 0x01)

/-- `HEARTBEAT` (R144): `BUILD` returns `ACK(0x13, serial)`. -/
def execHeartbeat (len : Byte) (tail : Bytes) (s : State) : Outcome := .next ((s.takeFrame len 0x13 tail).answerAck 0x13)

/-- `GPS` (R145): `BUILD` returns `ACK(0x22, serial)`. -/
def execGps (len : Byte) (tail : Bytes) (s : State) : Outcome := .next ((s.takeFrame len 0x22 tail).answerAck 0x22)

/-- `ALARM` (R146): `BUILD` returns `ACK(0x26, serial)`. -/
def execAlarm (len : Byte) (tail : Bytes) (s : State) : Outcome := .next ((s.takeFrame len 0x26 tail).answerAck 0x26)

/-- `ID27` (R147): `BUILD` returns `ACK(0x27, serial)`. -/
def execId27 (len : Byte) (tail : Bytes) (s : State) : Outcome := .next ((s.takeFrame len 0x27 tail).answerAck 0x27)

/-- `LBS_MULTI` (R148): `BUILD` returns `ACK(0x28, serial)`. -/
def execLbsMulti (len : Byte) (tail : Bytes) (s : State) : Outcome := .next ((s.takeFrame len 0x28 tail).answerAck 0x28)

/-- `ADDR_REQ` (R149): `BUILD` returns `ACK(0x2A, serial)`. -/
def execAddrReq (len : Byte) (tail : Bytes) (s : State) : Outcome := .next ((s.takeFrame len 0x2A tail).answerAck 0x2A)

/-- `GPS_A0` (R150): `BUILD` returns `ACK(0xA0, serial)`. -/
def execGpsA0 (len : Byte) (tail : Bytes) (s : State) : Outcome := .next ((s.takeFrame len 0xA0 tail).answerAck 0xA0)

/-- `LBS_4G` (R151): `BUILD` returns `ACK(0xA1, serial)`. -/
def execLbs4g (len : Byte) (tail : Bytes) (s : State) : Outcome := .next ((s.takeFrame len 0xA1 tail).answerAck 0xA1)

/-- `FENCE_ALARM` (R152): `BUILD` returns `ACK(0xA4, serial)`. -/
def execFenceAlarm (len : Byte) (tail : Bytes) (s : State) : Outcome := .next ((s.takeFrame len 0xA4 tail).answerAck 0xA4)

/-- `TIME_CAL` (R153): `BUILD` samples `now` and returns `TIMECAL_RSP(serial, now)`. -/
def execTimeCal (len : Byte) (tail : Bytes) (s : State) : Outcome := .next (s.takeFrame len 0x8A tail).answerTimecal

/-- `ADDR_CN` (R154): `BUILD` returns nothing. -/
def execAddrCn (len : Byte) (tail : Bytes) (s : State) : Outcome := .next (s.takeFrame len 0x17 tail).answerNothing

/-- `RESP_ONLINE` (R155): `BUILD` returns nothing. -/
def execRespOnline (len : Byte) (tail : Bytes) (s : State) : Outcome := .next (s.takeFrame len 0x21 tail).answerNothing

/-- `ONLINE_CMD` (R156): `BUILD` returns nothing. -/
def execOnlineCmd (len : Byte) (tail : Bytes) (s : State) : Outcome := .next (s.takeFrame len 0x80 tail).answerNothing

/-- `INFO_XFER` (R157): `BUILD` returns nothing. -/
def execInfoXfer (len : Byte) (tail : Bytes) (s : State) : Outcome := .next (s.takeFrame len 0x94 tail).answerNothing

/-- `ADDR_EN` (R158): `BUILD` returns nothing. -/
def execAddrEn (len : Byte) (tail : Bytes) (s : State) : Outcome := .next (s.takeFrame len 0x97 tail).answerNothing

/-- `OTHER` (R159): `BUILD` returns nothing; not an error. -/
def execOther (len pid : Byte) (tail : Bytes) (s : State) : Outcome := .next (s.takeFrame len pid tail).answerNothing

/-- `NONSYNC` (R94): `OFF <- OFF + 1`, nothing is emitted, the loop continues with step 1. The two bytes
were the operands of the sync test and have no other effect. -/
def execNonsync (_a _b : Byte) (s : State) : Outcome := .next ({ s with off := s.off + 1 }.goto .scan)

end Sys2Proof.Machine
end

