-- ==== Sys2Proof/Machine/System.lean ====
section
/-! DEFINITION. `RESET` (spec/70_reset_and_hazards.md R225 to R227). -/

namespace Sys2Proof.Machine

/-- `RESET`: `BUF_LEN <- 0`, `OFF <- 0`; with no valid index the buffer holds nothing; every other element
of the block is left unspecified, a free value (log 4). It emits nothing and does not touch what has been
emitted (40_framer.md R109), nor the platform's side.

Applied right after a `RESET` it changes nothing (R227). Applied to `State.reset`, whose unspecified registers
hold zero, it may change those registers and nothing else (DESIGN CHOICE, unsafe, log 22). -/
def execReset (s : State) : Outcome :=
  .next
    { s with
      buf := [], bufLen := 0, off := 0, fl := Config.resetFl, crc := Config.resetCrc,
      rsp := (List.range 16).map Config.resetRspByte,
      rspLen := [0, 10, 16].getD Config.resetRspLenIndex.val 0,
      pid := Config.resetPid, ser0 := Config.resetSer0, ser1 := Config.resetSer1,
      serValid := Config.resetSerValid, ctl := .rest }

end Sys2Proof.Machine
end

