-- ==== Sys2Proof/Machine/Dispatch.lean ====
section
/-! DEFINITION. The dispatch: one arm per constructor of `Instr`, in the order of spec/opcode_table.json. -/

namespace Sys2Proof.Machine

def exec (i : Instr) (s : State) : Host.Outcome State Fault Refusal :=
  match i with
  | .login len tail => Sys2Proof.Machine.execLogin len tail s
  | .heartbeat len tail => Sys2Proof.Machine.execHeartbeat len tail s
  | .addrCn len tail => Sys2Proof.Machine.execAddrCn len tail s
  | .respOnline len tail => Sys2Proof.Machine.execRespOnline len tail s
  | .gps len tail => Sys2Proof.Machine.execGps len tail s
  | .alarm len tail => Sys2Proof.Machine.execAlarm len tail s
  | .id27 len tail => Sys2Proof.Machine.execId27 len tail s
  | .lbsMulti len tail => Sys2Proof.Machine.execLbsMulti len tail s
  | .addrReq len tail => Sys2Proof.Machine.execAddrReq len tail s
  | .onlineCmd len tail => Sys2Proof.Machine.execOnlineCmd len tail s
  | .timeCal len tail => Sys2Proof.Machine.execTimeCal len tail s
  | .infoXfer len tail => Sys2Proof.Machine.execInfoXfer len tail s
  | .addrEn len tail => Sys2Proof.Machine.execAddrEn len tail s
  | .gpsA0 len tail => Sys2Proof.Machine.execGpsA0 len tail s
  | .lbs4g len tail => Sys2Proof.Machine.execLbs4g len tail s
  | .fenceAlarm len tail => Sys2Proof.Machine.execFenceAlarm len tail s
  | .other len pid tail => Sys2Proof.Machine.execOther len pid tail s
  | .nonsync a b => Sys2Proof.Machine.execNonsync a b s
  | .ack pid s0 s1 => Sys2Proof.Machine.execAck pid s0 s1 s
  | .timecalRsp s0 s1 now => Sys2Proof.Machine.execTimecalRsp s0 s1 now s
  | .reset => Sys2Proof.Machine.execReset s
  | .feed chunk => Sys2Proof.Machine.execFeed chunk s
  | .fAppend chunk => Sys2Proof.Machine.execFAppend chunk s
  | .fShort => Sys2Proof.Machine.execFShort s
  | .fSkip => Sys2Proof.Machine.execFSkip s
  | .fLen => Sys2Proof.Machine.execFLen s
  | .fWait => Sys2Proof.Machine.execFWait s
  | .fEmit => Sys2Proof.Machine.execFEmit s
  | .fCompact => Sys2Proof.Machine.execFCompact s
  | .extract f => Sys2Proof.Machine.execExtract f s
  | .crc16 m => Sys2Proof.Machine.execCrc16 m s
  | .crcInit => Sys2Proof.Machine.execCrcInit s
  | .crcByte b => Sys2Proof.Machine.execCrcByte b s
  | .crcFinal => Sys2Proof.Machine.execCrcFinal s
  | .build pid s0 s1 now => Sys2Proof.Machine.execBuild pid s0 s1 now s
  | .process f => Sys2Proof.Machine.execProcess f s

end Sys2Proof.Machine
end

