-- ==== Sys2Proof/Machine/Fetch.lean ====
section
/-! DEFINITION. How a program reaches the block: what the platform's queue stands for, and where the bytes
of an instruction are placed so that a step fetches them (spec/00_scope.md R11, spec/30_encoding.md R77,
spec/20_memory.md R54; log 7). -/

namespace Sys2Proof.Machine

/-- The bytes that an element of the platform's queue feeds: the chunk of a `FEED`, or the bytes of a
frame or of a byte pair, which the platform can only send as part of the stream (the stream notation of
R77); `none` for an operation or a response form, which is applied. -/
def fedBytes : Instr → Option Bytes
  | .feed chunk => some chunk
  | i => if i.isStreamForm then encode i else none

/-- The bytes stored at `OFF`, with the pass at the head of its loop. -/
def State.placeStream (s : State) (bs : Bytes) : State :=
  { s with buf := Memory.writeRun s.buf s.off bs, bufLen := max s.bufLen (s.off + bs.length), ctl := .scan }

/-- The operation put first in the platform's queue, with the block at rest. -/
def State.placeOperation (s : State) (i : Option Instr) : State :=
  { s with pending := i.toList ++ s.pending, ctl := .rest }

end Sys2Proof.Machine
end

