-- ==== Sys2Proof/Machine/Step.lean ====
section
/-! DEFINITION. One step of the machine, and the word a step fetches. At rest the platform's next
operation is taken (70_reset_and_hazards.md R227, R230 (b)); inside a pass the next instruction is fetched
at `OFF` and executed (20_memory.md R54; log 6). -/

namespace Sys2Proof.Machine

/-- A step at rest: nothing to do (R228), the entry of a `FEED`, or one of the other operations. -/
def stepRest (s : State) : Outcome :=
  match s.pending with
  | [] => .next s
  | i :: rest =>
    match fedBytes i with
    | some chunk => .next ({ s with pending := rest }.enterFeed chunk)
    | none => exec i { s with pending := rest }

/-- A step at the head of the loop: the instruction at `OFF`; when none is complete there, the tests of
the pass that end it, beginning with `F.SHORT`. -/
def stepScan (s : State) : Outcome :=
  withFetch s fun bs =>
    match decode bs with
    | .instr i _ => exec i s
    | .reject _ => exec .fShort s

/-- One step. -/
def step (s : State) : Host.Outcome State Fault Refusal :=
  match s.ctl with
  | .rest => stepRest s
  | .scan => stepScan s
  | .sync => exec .fSkip s
  | .len => exec .fLen s
  | .wait => exec .fWait s
  | .emit => exec .fEmit s
  | .process f => exec (.process f) (s.goto .scan)
  | .compact => exec .fCompact s

/-- The state in which the next step runs the instruction of a table word. A word of the stream is stored
at `OFF`, zero bytes after it, with the pass at the head of its loop; a response form, which the stream
never holds, is put at the head of the platform's queue with the block at rest (log 7, log 12). -/
def State.withFetchWord (s : State) (nbits w : Nat) : State :=
  if nbits = 80 ∨ nbits = 128 then s.placeOperation (decodeTableWord nbits w)
  else s.placeStream (streamOfWord nbits w)

end Sys2Proof.Machine
end

