-- ==== Sys2Proof/Safety.lean ====
section
/-! DEFINITION. What counts as a safe run, in the terms the statements use: the invariant of the machine,
the platform's obligations (spec/70_reset_and_hazards.md R230), the at-rest condition (spec/10_state.md
R25), the relation a pass of `FEED` realises (spec/40_framer.md R90) and the pairing of frames and
responses (spec/20_memory.md R50). -/

namespace Sys2Proof.Machine

/-- The bytes from `OFF` to the end of the buffer. -/
def State.window (s : State) : Bytes := s.bytes.drop s.off

/-- No instruction is complete on these bytes: the pass stops here (`F.SHORT` or `F.WAIT`). -/
def isStalled (bs : Bytes) : Bool :=
  match decode bs with
  | .reject _ => true
  | .instr _ _ => false

/-- The buffer is in its canonical form: bytes at exactly the indices `0 .. BUF_LEN-1` (10_state.md R20,
R21). -/
def BufOk (s : State) : Prop := s.buf = Memory.ofBytes s.bytes ∧ s.bufLen = s.bytes.length

/-- The bytes begin with a sync. -/
def startsSync (bs : Bytes) : Prop := bs[0]? = some syncByte ∧ bs[1]? = some syncByte

/-- `FL` holds the frame length that the byte after the sync claims (10_state.md R23). -/
def flOf (fl : Word9) (bs : Bytes) : Prop := bs[2]?.map frameLength9 = some fl

/-- What holds at each control position of the pass. At rest `OFF = 0` and no step of the pass can make
progress (10_state.md R25); after a stall with six bytes available `FL` is that of the pending frame. -/
def CtlOk (s : State) : Prop :=
  match s.ctl with
  | .rest => s.off = 0 ∧ isStalled s.bytes = true ∧ (6 ≤ s.bufLen → flOf s.fl s.bytes)
  | .scan => True
  | .sync => 6 ≤ s.avail
  | .len => 6 ≤ s.avail ∧ startsSync s.window
  | .wait => 6 ≤ s.avail ∧ startsSync s.window ∧ flOf s.fl s.window
  | .emit => 6 ≤ s.avail ∧ startsSync s.window ∧ flOf s.fl s.window ∧ s.fl.toNat ≤ s.avail
  | .process f => isFrame f = true
  | .compact => isStalled s.window = true ∧ (6 ≤ s.avail → flOf s.fl s.window)

/-- What the platform may put in its queue: a well-formed operation or stream form (R230), but none of the
steps that run only inside a `FEED` (00_scope.md R10: "the steps inside `FEED`"; log 17). DESIGN CHOICE
(log 21): R11 has the platform apply `RESET` and `FEED`, and Table R10 lists neither `CRC.INIT`, `CRC.BYTE`
and `CRC.FINAL` nor `ACK` and `TIMECAL_RSP`; the spec does not say whether the platform may apply these by
themselves, and the model's queue admits them, like every operation of Table R10 but the steps of `FEED`. -/
def Instr.platformMay : Instr → Bool
  | .fAppend _ => false
  | .fShort => false
  | .fSkip => false
  | .fLen => false
  | .fWait => false
  | .fEmit => false
  | .fCompact => false
  | i => i.wellFormed

/-- The invariant of the machine. -/
structure StateInv (s : State) : Prop where
  buffer : BufOk s
  offset : s.off ≤ s.bufLen
  rspSize : s.rsp.length = 16
  rspLength : s.rspLen = 0 ∨ s.rspLen = 10 ∨ s.rspLen = 16
  control : CtlOk s
  platform : ∀ i ∈ s.pending, Instr.platformMay i = true

/-- At rest, with the invariant: where the platform's operations are applied (10_state.md R25). -/
def AtRest (s : State) : Prop := StateInv s ∧ s.ctl = .rest

/-- The pass of Pseudocode R90 as a relation: the bytes to scan, the frames emitted in order, the bytes
retained. -/
inductive Pass : Bytes → List Bytes → Bytes → Prop where
  /-- `F.SHORT` (40_framer.md R92). -/
  | short {bs : Bytes} : bs.length < 6 → Pass bs [] bs
  /-- `F.SKIP` (R94). -/
  | skip {a : Byte} {bs : Bytes} {frames : List Bytes} {kept : Bytes} :
      6 ≤ (a :: bs).length → ¬ startsSync (a :: bs) → Pass bs frames kept → Pass (a :: bs) frames kept
  /-- `F.LEN`, `F.WAIT` (R95, R96). -/
  | wait {len : Byte} {more : Bytes} :
      6 ≤ (syncByte :: syncByte :: len :: more).length →
      (syncByte :: syncByte :: len :: more).length < len.toNat + 5 →
      Pass (syncByte :: syncByte :: len :: more) [] (syncByte :: syncByte :: len :: more)
  /-- `F.LEN`, `F.EMIT` (R95, R97). -/
  | emit {f bs : Bytes} {frames : List Bytes} {kept : Bytes} :
      6 ≤ (f ++ bs).length → isFrame f = true → Pass bs frames kept → Pass (f ++ bs) (f :: frames) kept

/-- The answer a frame gets: none without a serial; 16 bytes for `8A`; 10 for the ids of `ACK_SET`; none
for every other id (42_response.md R135 to R138, R160). -/
def Answers (f : Bytes) (r : Option Bytes) : Prop :=
  match frameSerial f with
  | none => r = none
  | some (a, b) =>
    if f.getD 3 0 = timecalId then ∃ time : Bytes, time.length = 6 ∧ r = some (timecalBytes time a b)
    else if f.getD 3 0 ∈ ackSet then r = some (ackBytes (f.getD 3 0) a b)
    else r = none

/-- A trace in which each frame is followed by its response, when it gets one, before the next frame
(20_memory.md R50, 70_reset_and_hazards.md R242), for these frames in this order. -/
inductive Paired : List Bytes → List Event → Prop where
  | nil : Paired [] []
  | frame {f : Bytes} {r : Option Bytes} {frames : List Bytes} {events : List Event} :
      Answers f r → Paired frames events →
      Paired (f :: frames) (.frm f :: ((r.map Event.rsp).toList ++ events))

/-- The frames of a trace, in order. -/
def framesOf (t : List Event) : List Bytes :=
  t.filterMap fun e => match e with
    | .frm f => some f
    | .rsp _ => none

/-- The ten frame kinds whose protocol id is in `ACK_SET`, each with its id (Table R70). -/
def ackKinds : List (Byte × (Byte → Bytes → Instr)) :=
  [(0x01, .login), (0x13, .heartbeat), (0x22, .gps), (0x26, .alarm), (0x27, .id27), (0x28, .lbsMulti),
   (0x2A, .addrReq), (0xA0, .gpsA0), (0xA1, .lbs4g), (0xA4, .fenceAlarm)]

/-- The five named frame kinds that get no response, each with its id (Table R70). -/
def silentKinds : List (Byte × (Byte → Bytes → Instr)) :=
  [(0x17, .addrCn), (0x21, .respOnline), (0x80, .onlineCmd), (0x94, .infoXfer), (0x97, .addrEn)]

/-- Several `FEED` operations in order. -/
def feedAll : List Bytes → State → Outcome
  | [], s => .next s
  | c :: cs, s => andThen (exec (.feed c) s) (feedAll cs)

/-- `CRC.BYTE` for each byte in index order. -/
def crcByteAll : Bytes → State → Outcome
  | [], s => .next s
  | b :: bs, s => andThen (exec (.crcByte b) s) (crcByteAll bs)

/-- The CRC register after one message bit, for a generator fed bit by bit: the feedback is the bit shifted
out exclusive-or the message bit (20_memory.md R44, 41_crc.md R122). -/
def crcBit (c : Word16) (bit : Bool) : Word16 :=
  if c.getLsbD 0 != bit then (c >>> 1) ^^^ crcPoly else c >>> 1

/-- The bits of a byte, least significant first. -/
def bitsOf (b : Byte) : List Bool := (List.range 8).map b.getLsbD

/-- A safe outcome: a next state, no fault and no refusal (60_exceptions.md R200). -/
def Continues (o : Outcome) : Prop := ∃ t, o = .next t

end Sys2Proof.Machine
end

