-- ==== Sys2Proof/Certificates/Slice0/Obligations.lean ====
section
/-! DEFINITION. The statements for the provers. Each docstring names the rules of spec/ it formalises.
`AtRest`, `StateInv`, `Pass`, `Paired` and the tables of frame kinds are defined in Sys2Proof/Safety.lean. -/

open Sys2Proof Sys2Proof.Machine

/-! ### Encoding -/

/-- Decode and encode agree on every form of the inbound stream, whatever bytes follow: a frame kind takes
all of its bytes, `NONSYNC` the first of its two (R60, R67, R70, R71, R94). -/
def Obligations.StreamFormsDecodeTheirEncoding : Prop :=
  ∀ (i : Instr) (own rest : Bytes), i.wellFormed = true → i.isStreamForm = true → encode i = some own →
    6 ≤ (own ++ rest).length →
    ∃ left, decode (own ++ rest) = .instr i left ∧
      ((∃ a b, i = .nonsync a b ∧ left = b :: rest) ∨ ((∀ a b, i ≠ .nonsync a b) ∧ left = rest))

/-- What the decoder answers is a well-formed stream form, and the bytes it took are its encoding: no bit
of the stream is dropped or made up (R60, R70, R71, R94). -/
def Obligations.DecodedFormsEncodeBack : Prop :=
  ∀ (bs : Bytes) (i : Instr) (left : Bytes), decode bs = .instr i left →
    i.wellFormed = true ∧ i.isStreamForm = true ∧
    ∃ own, encode i = some own ∧ own <+: bs ∧
      ((∃ a b, i = .nonsync a b ∧ bs = a :: left) ∨ ((∀ a b, i ≠ .nonsync a b) ∧ bs = own ++ left))

/-- Decode and encode agree on the two response forms, BCD time bytes included (R68, R69, R141). -/
def Obligations.ResponseFormsDecodeTheirEncoding : Prop :=
  ∀ (i : Instr) (own : Bytes), i.wellFormed = true → i.isStreamForm = false → encode i = some own →
    decodeResponse own = some i

/-- The decoder rejects exactly the two stalls: fewer than 6 bytes, or a matched sync with fewer bytes than
`len + 5` (R92, R93, R96). -/
def Obligations.DecoderRejectsExactlyTheStalls : Prop :=
  ∀ bs : Bytes,
    (decode bs = .reject .short ↔ bs.length < 6) ∧
    ∀ fl, decode bs = .reject (.incomplete fl) ↔
      ∃ len more, bs = 0x78 :: 0x78 :: len :: more ∧ 6 ≤ bs.length ∧ bs.length < len.toNat + 5 ∧ fl = len.toNat + 5

/-- The protocol-id map: the byte after `len` selects the frame kind (Table R70). -/
def Obligations.ProtocolIdSelectsTheKind : Prop :=
  ∀ (len : Byte) (tail rest : Bytes), tail.length = len.toNat + 1 → 6 ≤ tail.length + rest.length + 4 →
    (∀ k ∈ ackKinds, decode (0x78 :: 0x78 :: len :: k.1 :: (tail ++ rest)) = .instr (k.2 len tail) rest) ∧
    (∀ k ∈ silentKinds, decode (0x78 :: 0x78 :: len :: k.1 :: (tail ++ rest)) = .instr (k.2 len tail) rest) ∧
    decode (0x78 :: 0x78 :: len :: 0x8A :: (tail ++ rest)) = .instr (.timeCal len tail) rest ∧
    ∀ pid, pid ∉ ackSet → pid ≠ 0x8A → pid ∉ silentKinds.map Prod.fst →
      decode (0x78 :: 0x78 :: len :: pid :: (tail ++ rest)) = .instr (.other len pid tail) rest

/-- A few words written out from the encodings decode to their instructions (R60, R67, R70, R72). The last
one is a 4-byte header word of a 5-byte frame: that the fifth byte is `00` is the model's choice (log 12:
zero bytes after a table word). -/
def Obligations.SampleWordsDecode : Prop :=
  decode [0x78, 0x78, 0x05, 0x01, 0x00, 0x01, 0xD9, 0xDC, 0x0D, 0x0A] =
      .instr (.login 0x05 [0x00, 0x01, 0xD9, 0xDC, 0x0D, 0x0A]) [] ∧
  decode [0x78, 0x78, 0x05, 0x8A, 0x00, 0x06, 0x88, 0x29, 0x0D, 0x0A, 0x78] =
      .instr (.timeCal 0x05 [0x00, 0x06, 0x88, 0x29, 0x0D, 0x0A]) [0x78] ∧
  decode [0x78, 0x78, 0x05, 0x99, 0x00, 0x0A, 0x28, 0xB4, 0x0D, 0x0A] =
      .instr (.other 0x05 0x99 [0x00, 0x0A, 0x28, 0xB4, 0x0D, 0x0A]) [] ∧
  decode [0x41, 0x78, 0x78, 0x05, 0x01, 0x00] = .instr (.nonsync 0x41 0x78) [0x78, 0x78, 0x05, 0x01, 0x00] ∧
  decodeTableWord 32 0x78780013 = some (.heartbeat 0x00 [0x00])

/-! ### The step -/

/-- A step at the head of the loop runs the instruction that the bytes at `OFF` decode to (R54, R71). That
one step runs the whole instruction, an iteration of the loop, is the model's choice (log 6); R48 would
admit the whole pass as one transition. -/
def Obligations.StepRunsTheInstructionAtTheScanOffset : Prop :=
  ∀ (s : State) (i : Instr) (left : Bytes), BufOk s → s.off ≤ s.bufLen → s.ctl = .scan →
    decode s.window = .instr i left → step s = exec i s

/-- A step at rest: nothing without a platform operation (R228); the entry of a `FEED`, which appends the
chunk, sets `OFF` to 0 and enters the loop (R90, R91); any other operation runs. A stream form in the
queue stands for feeding its bytes: that, and the queue itself, is the model's choice (log 7). -/
def Obligations.StepAtRestTakesThePlatformsNext : Prop :=
  ∀ s : State, s.ctl = .rest →
    (s.pending = [] → step s = .next s) ∧
    (∀ c ops, s.pending = .feed c :: ops → step s = .next ({ s with pending := ops }.enterFeed c)) ∧
    (∀ i own ops, s.pending = i :: ops → i.isStreamForm = true → encode i = some own →
      step s = .next ({ s with pending := ops }.enterFeed own)) ∧
    (∀ i ops, s.pending = i :: ops → i.isStreamForm = false → (∀ c, i ≠ .feed c) →
      step s = exec i { s with pending := ops })

/-- The other control positions: a stall at the head of the loop goes to `F.SHORT`, and each later position
runs its step of Pseudocode R90 or R160; the order is that of R93. -/
def Obligations.StepInsideAPassFollowsThePseudocode : Prop :=
  ∀ s : State,
    (BufOk s → s.off ≤ s.bufLen → s.ctl = .scan → isStalled s.window = true → step s = exec .fShort s) ∧
    (s.ctl = .sync → step s = exec .fSkip s) ∧
    (s.ctl = .len → step s = exec .fLen s) ∧
    (s.ctl = .wait → step s = exec .fWait s) ∧
    (s.ctl = .emit → step s = exec .fEmit s) ∧
    (∀ f, s.ctl = .process f → step s = exec (.process f) { s with ctl := .scan }) ∧
    (s.ctl = .compact → step s = exec .fCompact s)

/-! ### Invariants of the machine -/

/-- Every step keeps the invariant: `BUF` in its canonical form with bytes at exactly `0 .. BUF_LEN-1` (R20,
R21), `OFF <= BUF_LEN` (R22), 16 bytes of `RSP` and a length of 0, 10 or 16 (R28), what R90 to R97 have
established at each position of the pass, and at rest R25. The invariant is gathered by the model: R21 and R25
are the spec's derivations, `OFF = 0` at rest its decision D5, the control position log 6. -/
def Obligations.StepKeepsTheInvariant : Prop :=
  ∀ s t : State, StateInv s → step s = .next t → StateInv t

/-- The state after reset has the invariant, whatever well-formed operations the platform has queued and
whatever times it presents. The values of the registers the spec leaves unspecified are the model's choice
(log 3), as are the queue and the time port (log 7, log 8). -/
def Obligations.ResetStateHasTheInvariant : Prop :=
  StateInv State.reset ∧
  ∀ (ops : List Instr) (times : List Now), (∀ i ∈ ops, Instr.platformMay i = true) →
    StateInv { State.reset with pending := ops, nowPort := times }

/-- No step of the machine stops: "No condition in this hardware is a trap" (R200). That the platform queues
only what the invariant admits is the model's reading of R230 (log 7). -/
def Obligations.NoStepStops : Prop :=
  ∀ s : State, StateInv s → ∃ t, step s = .next t

/-- R25 over every run: between operations `OFF = 0` and exactly one of its two cases holds; in the second
`BUF_LEN <= 259`. R25 is the spec's derivation from R92 to R98, `OFF = 0` its decision D5; the queue is log 7.
-/
def Obligations.BetweenOperationsTheBufferHoldsNoCompleteFrame : Prop :=
  ∀ (n : Nat) (ops : List Instr) (times : List Now) (t : State), (∀ i ∈ ops, Instr.platformMay i = true) →
    Sys2Proof.core.run n ({ State.reset with pending := ops, nowPort := times } : State) = .next t →
    t.ctl = .rest →
    t.off = 0 ∧
    Xor (t.bufLen ≤ 5)
      (6 ≤ t.bufLen ∧ Memory.read t.buf 0 = some 0x78 ∧ Memory.read t.buf 1 = some 0x78 ∧
        ∃ len, Memory.read t.buf 2 = some len ∧ t.bufLen < len.toNat + 5) ∧
    (6 ≤ t.bufLen → t.bufLen ≤ 259)

/-- The capacity `259 + CHUNK_MAX` is never exceeded: at rest at most 259 bytes are held, and appending a
chunk of at most `CHUNK_MAX` bytes stays within it, for every `CHUNK_MAX >= 1` (R24, R208). R24 and R208 are
the spec's derivations (D3; log 1). -/
def Obligations.AppendNeverOverflows : Prop :=
  ∀ (s : State) (chunkMax : Nat) (c : Bytes), AtRest s → 1 ≤ chunkMax → c.length ≤ chunkMax →
    s.bufLen ≤ 259 ∧ ∃ t, exec (.fAppend c) s = .next t ∧ t.bufLen ≤ 259 + chunkMax

/-- The trace only grows: no operation and no step changes an event already emitted (R109). That the trace
stands in the state is the model's choice (log 10). -/
def Obligations.EmittedEventsStay : Prop :=
  (∀ (i : Instr) (s t : State), exec i s = .next t → s.trace <+: t.trace) ∧
  ∀ s t : State, step s = .next t → s.trace <+: t.trace

/-! ### FEED -/

/-- `FEED` at rest completes at rest: it realises the pass of Pseudocode R90 on the retained bytes followed by
the chunk, which admits no other frames and no other retained bytes; the events it emits are the frames of the
pass in order, each followed by its response (R50); the platform's queue and the returned value are untouched.
One trace for frames and responses is the spec's decision D9 (log 10). -/
def Obligations.FeedRealisesThePass : Prop :=
  ∀ (s : State) (c : Bytes), AtRest s →
    ∃ t frames events, exec (.feed c) s = .next t ∧ AtRest t ∧ Pass (s.bytes ++ c) frames t.bytes ∧
      (∀ others kept, Pass (s.bytes ++ c) others kept → others = frames ∧ kept = t.bytes) ∧
      t.trace = s.trace ++ events ∧ Paired frames events ∧ t.pending = s.pending ∧ t.result = s.result

/-- Stepping a `FEED` from the queue, one instruction or step of the pass at a time, ends in exactly the state
that the operation `FEED` gives as one transition (R48, R90). The smaller step is the model's choice (log 6).
-/
def Obligations.SteppingAFeedIsTheFeed : Prop :=
  ∀ (s : State) (c : Bytes) (ops : List Instr), AtRest s → s.pending = .feed c :: ops →
    ∃ n, Sys2Proof.core.run n s = exec (.feed c) { s with pending := ops }

/-- Fragmentation invariance (R105): every way of cutting a byte sequence into chunks gives the same frames,
the same responses, the same final buffer, indeed the same state. The exact form is the spec's derivation from
R90 to R98; that the transient registers agree too is the model's (log 5). -/
def Obligations.FragmentationInvariance : Prop :=
  ∀ (s : State) (chunks : List Bytes), AtRest s → feedAll chunks s = exec (.feed chunks.flatten) s

/-- `FEED` of an empty chunk at rest changes nothing and emits nothing (R26). A consequence the spec derives
from R25 and R90; that no register changes either is the model's (log 5). -/
def Obligations.EmptyFeedIsANoOp : Prop :=
  ∀ s : State, AtRest s → exec (.feed []) s = .next s

/-- A partial frame is retained (R104): a frame of 6 bytes or more, split anywhere, fed in two parts into an
empty block. The general split is the spec's derivation from R92 to R98. -/
def Obligations.PartialFrameIsRetained : Prop :=
  ∀ (s : State) (f1 f2 : Bytes), AtRest s → s.bufLen = 0 → f1 ≠ [] → f2 ≠ [] → isFrame (f1 ++ f2) = true →
    6 ≤ (f1 ++ f2).length →
    ∃ t u, exec (.feed f1) s = .next t ∧ t.trace = s.trace ∧ t.bytes = f1 ∧
      exec (.feed f2) t = .next u ∧ framesOf u.trace = framesOf s.trace ++ [f1 ++ f2] ∧ u.bufLen = 0

/-- Garbage-prefix tolerance (R103), the exact form: garbage in which no pair `78 78` begins, before a frame
of 6 bytes or more, is discarded and the frame alone is emitted. The exact form is the spec's derivation from
R92 to R97. -/
def Obligations.GarbageBeforeAFrameIsDiscarded : Prop :=
  ∀ (s : State) (g f : Bytes), AtRest s → s.bufLen = 0 → isFrame f = true → 6 ≤ f.length →
    (∀ i, i < g.length → ¬ ((g ++ f)[i]? = some 0x78 ∧ (g ++ f)[i + 1]? = some 0x78)) →
    ∃ t, exec (.feed (g ++ f)) s = .next t ∧ framesOf t.trace = framesOf s.trace ++ [f] ∧ t.bufLen = 0

/-- A 5-byte frame is held until one more byte arrives, is then emitted, and gets no response (R92, R101,
R206, R235). That it gets no response is the spec's decision D8 (log 15). -/
def Obligations.FiveByteFrameWaitsForOneMore : Prop :=
  ∀ (s : State) (pid x b : Byte), AtRest s → s.bufLen = 0 →
    ∃ t u, exec (.feed [0x78, 0x78, 0x00, pid, x]) s = .next t ∧ t.trace = s.trace ∧
      t.bytes = [0x78, 0x78, 0x00, pid, x] ∧
      exec (.feed [b]) t = .next u ∧ u.trace = s.trace ++ [.frm [0x78, 0x78, 0x00, pid, x]] ∧ u.bytes = [b]

/-- Byte-serial behaviour (R106): a `FEED` of one byte makes at most one `F.SKIP` or one `F.EMIT`. The spec
derives it from R25 and R90. -/
def Obligations.OneByteFeedMakesAtMostOneMove : Prop :=
  ∀ (s : State) (b : Byte), AtRest s →
    ∃ t, exec (.feed [b]) s = .next t ∧
      ((t.bytes = s.bytes ++ [b] ∧ t.trace = s.trace) ∨
       (s.bufLen = 5 ∧ t.bytes = (s.bytes ++ [b]).tail ∧ t.trace = s.trace) ∨
       (∃ f rest, s.bytes ++ [b] = f ++ rest ∧ isFrame f = true ∧ rest.length ≤ 1 ∧ t.bytes = rest ∧
         framesOf t.trace = framesOf s.trace ++ [f]))

/-- Termination (R102): the loop ends within `BUF_LEN + 1` iterations, so a larger bound changes nothing. The
spec derives it from R90. -/
def Obligations.PassEndsWithinBufLenPlusOneIterations : Prop :=
  ∀ (s : State) (k : Nat), StateInv s → s.ctl = .scan →
    ∃ t, passLoop (s.bufLen + 1) s = .next t ∧ t.ctl = .compact ∧ passLoop (s.bufLen + 1 + k) s = .next t

/-- A frame kind or `NONSYNC` executed is one iteration of the loop of Pseudocode R90 with `PROCESS`, at every
state in which its bytes stand at `OFF` (R90, R93, R160). That one step runs one iteration is the model's
choice (log 6). -/
def Obligations.InstructionsAreIterationsOfThePass : Prop :=
  ∀ (s : State) (i : Instr) (left : Bytes), StateInv s → s.ctl = .scan → decode s.window = .instr i left →
    passIteration s = exec i s

/-! ### The steps of FEED -/

/-- `F.APPEND` (R91): the chunk after the bytes held, in order; the bytes already in `BUF` untouched;
nothing else changes. -/
def Obligations.AppendStoresTheChunkInOrder : Prop :=
  ∀ (s : State) (chunk : Bytes), BufOk s →
    ∃ buf, exec (.fAppend chunk) s = .next { s with buf := buf, bufLen := s.bufLen + chunk.length } ∧
      (∀ a, a < s.bufLen → Memory.read buf a = Memory.read s.buf a) ∧
      (∀ i, i < chunk.length → chunk[i]? = Memory.read buf (s.bufLen + i)) ∧
      ∀ a, s.bufLen + chunk.length ≤ a → Memory.read buf a = none

/-- `F.SHORT` (R92): with fewer than 6 bytes the loop ends; otherwise the sync test follows (R93); `OFF` is
not changed. -/
def Obligations.ShortTestStopsBelowSixBytes : Prop :=
  ∀ s : State,
    exec .fShort s = .next { s with ctl := if s.bufLen - s.off < 6 then .compact else .sync }

/-- `F.SKIP` (R94): when not both bytes at `OFF` are `78` the offset advances by exactly one and the loop
continues; when both are, the length follows. Nothing else changes. -/
def Obligations.SkipAdvancesByExactlyOne : Prop :=
  ∀ (s : State) (a b : Byte), BufOk s → Memory.read s.buf s.off = some a → Memory.read s.buf (s.off + 1) = some b →
    (¬ (a = 0x78 ∧ b = 0x78) → exec .fSkip s = .next { s with off := s.off + 1, ctl := .scan }) ∧
    (a = 0x78 ∧ b = 0x78 → exec .fSkip s = .next { s with ctl := .len })

/-- `F.LEN` (R95): `FL` becomes `len + 5`, unsigned and never truncated; the wait test follows. Unsigned `len`
and the nine bits are the spec's decision D4 (log 18). -/
def Obligations.LenReadsTheFrameLength : Prop :=
  ∀ (s : State) (len : Byte), BufOk s → Memory.read s.buf (s.off + 2) = some len →
    ∃ fl : Word9, fl.toNat = len.toNat + 5 ∧ exec .fLen s = .next { s with fl := fl, ctl := .wait }

/-- `F.WAIT` (R96): with fewer than `FL` bytes the loop ends with `OFF` unchanged; otherwise the frame is
emitted next. -/
def Obligations.WaitTestStopsBelowTheFrameLength : Prop :=
  ∀ s : State,
    exec .fWait s = .next { s with ctl := if s.bufLen - s.off < s.fl.toNat then .compact else .emit }

/-- `F.EMIT` (R97): the `FL` bytes from `OFF`, exactly as received, are emitted; `OFF` advances by `FL`; no
byte of the buffer changes. Control goes to `PROCESS` of the frame before the loop continues with step 1:
R160, by the spec's decision D9; the control position is the model's (log 6). -/
def Obligations.EmitSlicesTheFrame : Prop :=
  ∀ s : State, BufOk s → s.off + s.fl.toNat ≤ s.bufLen →
    ∃ f : Bytes, f.length = s.fl.toNat ∧ (∀ i, i < f.length → f[i]? = Memory.read s.buf (s.off + i)) ∧
      exec .fEmit s =
        .next { s with trace := s.trace ++ [.frm f], off := s.off + s.fl.toNat, ctl := .process f }

/-- `F.COMPACT` (R98): the bytes from `OFF` on become the buffer in the same order, `BUF_LEN` shrinks by
`OFF`, `OFF` becomes 0. -/
def Obligations.CompactKeepsTheBytesFromTheOffset : Prop :=
  ∀ s : State, BufOk s → s.off ≤ s.bufLen →
    ∃ buf, exec .fCompact s = .next { s with buf := buf, bufLen := s.bufLen - s.off, off := 0, ctl := .rest } ∧
      ∀ a, Memory.read buf a = Memory.read s.buf (s.off + a)

/-- The three steps that read `BUF` stop, with the model's own fault, when there is nothing to read: no rule
makes such a read (R40, R47; the fault is the model's choice, log 2). -/
def Obligations.ReadsOutsideTheBufferFault : Prop :=
  ∀ s : State, BufOk s →
    (s.bufLen ≤ s.off + 1 → ∃ a, exec .fSkip s = .fault (.outsideBuffer a)) ∧
    (s.bufLen ≤ s.off + 2 → exec .fLen s = .fault (.outsideBuffer (s.off + 2))) ∧
    (0 < s.fl.toNat → s.bufLen < s.off + s.fl.toNat → exec .fEmit s = .fault (.outsideBuffer s.off))

/-! ### The frame kinds -/

/-- The ten kinds of `ACK_SET` (R143 to R152), for every frame that has a serial: the frame is emitted as
received, `OFF` moves past it, the fields are extracted, and `ACK(pid, serial)` is built and emitted; nothing
else changes. The second part is the rules' examples, serial `00 01`. One trace, the frame before its
response, is the spec's decision D9 (log 10); the registers no rule mentions stay as they are (log 19). -/
def Obligations.AckKindsAreAcknowledged : Prop :=
  (∀ k ∈ ackKinds, ∀ (len : Byte) (tail : Bytes) (s : State) (s0 s1 : Byte),
    let f : Bytes := 0x78 :: 0x78 :: len :: k.1 :: tail
    let c := crc16 [0x05, k.1, s0, s1]
    let r : Bytes := [0x78, 0x78, 0x05, k.1, s0, s1, hi c, lo c, 0x0D, 0x0A]
    tail.length = len.toNat + 1 → 1 ≤ len.toNat → f[len.toNat - 1]? = some s0 → f[len.toNat]? = some s1 →
    exec (k.2 len tail) s = .next
      { s with
        fl := frameLength9 len, off := s.off + (len.toNat + 5), ctl := .scan,
        pid := k.1, ser0 := s0, ser1 := s1, serValid := true,
        crc := c ^^^ 0xFFFF, rsp := r ++ s.rsp.drop 10, rspLen := 10,
        trace := s.trace ++ [.frm f, .rsp r] }) ∧
  ackKinds.map (fun k => crc16 [0x05, k.1, 0x00, 0x01]) =
    [0xD9DC, 0xE9F1, 0x3583, 0x56E2, 0x0C3E, 0x46F9, 0xF341, 0x8CD7, 0xD60B, 0xEFB6]

/-- The kinds that get no response (R154 to R159), for every frame that has a serial: emitted and extracted,
`RSP_LEN` 0, not a byte of response. One trace is the spec's decision D9 (log 10); the registers no rule
mentions stay as they are (log 19). -/
def Obligations.SilentKindsAreEmittedOnly : Prop :=
  ∀ (len : Byte) (tail : Bytes) (s : State) (s0 s1 : Byte),
    tail.length = len.toNat + 1 → 1 ≤ len.toNat →
    let after (pid : Byte) (f : Bytes) : State :=
      { s with
        fl := frameLength9 len, off := s.off + (len.toNat + 5), ctl := .scan,
        pid := pid, ser0 := s0, ser1 := s1, serValid := true, rspLen := 0, trace := s.trace ++ [.frm f] }
    (∀ k ∈ silentKinds,
      let f : Bytes := 0x78 :: 0x78 :: len :: k.1 :: tail
      f[len.toNat - 1]? = some s0 → f[len.toNat]? = some s1 → exec (k.2 len tail) s = .next (after k.1 f)) ∧
    ∀ pid,
      let f : Bytes := 0x78 :: 0x78 :: len :: pid :: tail
      f[len.toNat - 1]? = some s0 → f[len.toNat]? = some s1 →
        exec (.other len pid tail) s = .next (after pid f)

/-- `TIME_CAL` (R153), for every frame that has a serial and a sample of `NOW` in range: the sample is taken
and `TIMECAL_RSP(serial, now)` is built and emitted; nothing else changes. The second part is the rule's
example. One trace is the spec's decision D9 (log 10), the nibble order of the time D11, its range D10. -/
def Obligations.TimeCalIsAnsweredWithTheTime : Prop :=
  (∀ (len : Byte) (tail : Bytes) (s : State) (s0 s1 : Byte),
    let f : Bytes := 0x78 :: 0x78 :: len :: 0x8A :: tail
    let now := s.nowValue
    let covered : Bytes :=
      [0x0B, 0x8A, bcd now.yy, bcd now.mo, bcd now.dd, bcd now.hh, bcd now.mi, bcd now.ss, s0, s1]
    let r : Bytes := 0x78 :: 0x78 :: (covered ++ [hi (crc16 covered), lo (crc16 covered), 0x0D, 0x0A])
    tail.length = len.toNat + 1 → 1 ≤ len.toNat → f[len.toNat - 1]? = some s0 → f[len.toNat]? = some s1 →
    now.inRange = true →
    exec (.timeCal len tail) s = .next
      { s.nowTaken with
        fl := frameLength9 len, off := s.off + (len.toNat + 5), ctl := .scan,
        pid := 0x8A, ser0 := s0, ser1 := s1, serValid := true,
        crc := crc16 covered ^^^ 0xFFFF, rsp := r ++ s.rsp.drop 16, rspLen := 16,
        trace := s.trace ++ [.frm f, .rsp r] }) ∧
  timecalBytes (Now.bcdBytes ⟨0, 1, 1, 0, 0, 0⟩) 0x00 0x01 =
    [0x78, 0x78, 0x0B, 0x8A, 0x00, 0x01, 0x01, 0x00, 0x00, 0x00, 0x00, 0x01, 0xD4, 0xA8, 0x0D, 0x0A]

/-- A sample of `NOW` with a field above 99 (R207): the six time bytes are some bytes or other; the rest of
the response is as in R137, its checksum that of the bytes sent; the machine goes on. The spec names the case
by its decision D10 (log 9). -/
def Obligations.TimeOutOfRangeLeavesOnlyTheTimeBytesOpen : Prop :=
  ∀ (len : Byte) (tail : Bytes) (s : State) (s0 s1 : Byte),
    let f : Bytes := 0x78 :: 0x78 :: len :: 0x8A :: tail
    tail.length = len.toNat + 1 → 1 ≤ len.toNat → f[len.toNat - 1]? = some s0 → f[len.toNat]? = some s1 →
    s.nowValue.inRange = false →
    ∃ (time : Bytes) (t : State), time.length = 6 ∧
      let covered : Bytes := [0x0B, 0x8A] ++ time ++ [s0, s1]
      let r : Bytes := [0x78, 0x78] ++ covered ++ [hi (crc16 covered), lo (crc16 covered), 0x0D, 0x0A]
      exec (.timeCal len tail) s = .next t ∧ t.trace = s.trace ++ [.frm f, .rsp r] ∧
      t.buf = s.buf ∧ t.bufLen = s.bufLen ∧ t.off = s.off + (len.toNat + 5) ∧ t.ctl = .scan ∧
      t.fl = frameLength9 len ∧ t.pid = 0x8A ∧ t.ser0 = s0 ∧ t.ser1 = s1 ∧ t.serValid = true ∧
      t.crc = crc16 covered ^^^ 0xFFFF ∧ t.rspLen = 16 ∧ t.rsp = r ++ s.rsp.drop 16 ∧
      t.result = s.result ∧ t.pending = s.pending ∧ t.nowPort = s.nowPort.tail

/-- A frame of 5 bytes (R101, R206), of any kind: emitted, `SER_VALID` 0, no response whatever its `pid`; no
other register of the response changes, nor the time input. No response is the spec's decision D8 (log 15);
what the other registers keep is log 19. -/
def Obligations.FiveByteFramesGetNoResponse : Prop :=
  ∀ (x : Byte) (s : State),
    let after (pid : Byte) : State :=
      { s with
        fl := 5, off := s.off + 5, ctl := .scan, pid := pid, serValid := false,
        trace := s.trace ++ [.frm [0x78, 0x78, 0x00, pid, x]] }
    (∀ k ∈ ackKinds, exec (k.2 0x00 [x]) s = .next (after k.1)) ∧
    (∀ k ∈ silentKinds, exec (k.2 0x00 [x]) s = .next (after k.1)) ∧
    exec (.timeCal 0x00 [x]) s = .next (after 0x8A) ∧
    ∀ pid, exec (.other 0x00 pid [x]) s = .next (after pid)

/-- `NONSYNC` (R94): one byte is skipped, nothing is emitted, nothing else changes. -/
def Obligations.NonsyncSkipsOneByte : Prop :=
  ∀ (a b : Byte) (s : State), exec (.nonsync a b) s = .next { s with off := s.off + 1, ctl := .scan }

/-! ### The checksum -/

/-- `CRC.INIT` (R121): the register becomes `FFFF`, and nothing carries over from an earlier computation
into a `CRC16`. -/
def Obligations.CrcInitSetsAllOnes : Prop :=
  ∀ s : State, exec .crcInit s = .next { s with crc := 0xFFFF } ∧
    ∀ (m : Bytes) (c : Word16), exec (.crc16 m) { s with crc := c } = exec (.crc16 m) s

/-- `CRC.BYTE` (R122): the byte into the low 8 bits, then eight shifts with `8408` when the bit shifted out
was 1; which is the generator fed with the byte's bits, least significant first (R44). The loop is the spec's
derivation from the parameters of R120. -/
def Obligations.CrcByteTakesTheBitsLeastSignificantFirst : Prop :=
  ∀ (b : Byte) (s : State),
    let shift (c : Word16) : Word16 := if c.getLsbD 0 then (c >>> 1) ^^^ 0x8408 else c >>> 1
    exec (.crcByte b) s = .next { s with crc := Nat.iterate shift 8 (s.crc ^^^ b.zeroExtend 16) } ∧
    exec (.crcByte b) s = .next { s with crc := (bitsOf b).foldl crcBit s.crc }

/-- `CRC.FINAL` (R123): the one's complement of the register is returned; the register is not written. -/
def Obligations.CrcFinalComplementsTheRegister : Prop :=
  ∀ s : State, exec .crcFinal s = .next { s with result := .checksum (s.crc ^^^ 0xFFFF) }

/-- `CRC16` (R120): `CRC.INIT`, one `CRC.BYTE` a byte in index order, `CRC.FINAL`; it writes the register
and returns a value, nothing else; the empty sequence gives `0000` and `05 01 00 01` gives `D9DC`. -/
def Obligations.Crc16IsInitBytesFinal : Prop :=
  (∀ (m : Bytes) (s : State),
    exec (.crc16 m) s = andThen (andThen (exec .crcInit s) (crcByteAll m)) (exec .crcFinal) ∧
    exec (.crc16 m) s = .next { s with crc := crc16 m ^^^ 0xFFFF, result := .checksum (crc16 m) }) ∧
  crc16 [] = 0x0000 ∧ crc16 [0x05, 0x01, 0x00, 0x01] = 0xD9DC

/-! ### Extraction and responses -/

/-- `EXTRACT` (R100, R101): byte 3 is the protocol id; with 6 bytes or more the serial is the two bytes at `L
- 6` and `L - 5`; with 5 there is none. Nothing else changes. The case of 5 bytes is the spec's decision D8;
`SER` kept there is log 19. -/
def Obligations.ExtractTakesIdAndSerial : Prop :=
  ∀ (f : Bytes) (s : State), isFrame f = true →
    ∃ p, f[3]? = some p ∧
      (f.length = 5 → exec (.extract f) s = .next { s with pid := p, serValid := false }) ∧
      (6 ≤ f.length → ∃ a b, f[f.length - 6]? = some a ∧ f[f.length - 5]? = some b ∧
        exec (.extract f) s = .next { s with pid := p, ser0 := a, ser1 := b, serValid := true })

/-- Where the serial of a short frame stands: Table R75, for `len` 0 to 5. The table is the spec's derivation
from R65, R66 and R97, its first row the decision D8. -/
def Obligations.RuntFramesUseHeaderBytesAsSerial : Prop :=
  ∀ pid x y z u v w : Byte,
    frameSerial [0x78, 0x78, 0x00, pid, x] = none ∧
    frameSerial [0x78, 0x78, 0x01, pid, x, y] = some (0x78, 0x78) ∧
    frameSerial [0x78, 0x78, 0x02, pid, x, y, z] = some (0x78, 0x02) ∧
    frameSerial [0x78, 0x78, 0x03, pid, x, y, z, u] = some (0x03, pid) ∧
    frameSerial [0x78, 0x78, 0x04, pid, x, y, z, u, v] = some (pid, x) ∧
    frameSerial [0x78, 0x78, 0x05, pid, x, y, z, u, v, w] = some (x, y)

/-- `ACK(pid, serial)` (R136): the ten bytes in `RSP`, the rest of `RSP` and of the state untouched, the ten
bytes returned; with the rule's example. That `RSP[10..15]` keep their bytes is the model's choice (log 19),
as is the field of the returned value (log 11). -/
def Obligations.AckFormIsBuilt : Prop :=
  (∀ (pid s0 s1 : Byte) (s : State),
    let c := crc16 [0x05, pid, s0, s1]
    let r : Bytes := [0x78, 0x78, 0x05, pid, s0, s1, hi c, lo c, 0x0D, 0x0A]
    exec (.ack pid s0 s1) s = .next
      { s with crc := c ^^^ 0xFFFF, rsp := r ++ s.rsp.drop 10, rspLen := 10, result := .response (some r) }) ∧
  ackBytes 0x01 0x00 0x01 = [0x78, 0x78, 0x05, 0x01, 0x00, 0x01, 0xD9, 0xDC, 0x0D, 0x0A]

/-- `TIMECAL_RSP(serial, now)` (R137) for a time in range: the sixteen bytes in `RSP` and returned; with the
rule's example, 2026-11-11 06:17:05. The nibble order is the spec's decision D11, the range its decision D10.
-/
def Obligations.TimecalFormIsBuilt : Prop :=
  (∀ (s0 s1 : Byte) (now : Now) (s : State),
    let covered : Bytes :=
      [0x0B, 0x8A, bcd now.yy, bcd now.mo, bcd now.dd, bcd now.hh, bcd now.mi, bcd now.ss, s0, s1]
    let r : Bytes := 0x78 :: 0x78 :: (covered ++ [hi (crc16 covered), lo (crc16 covered), 0x0D, 0x0A])
    now.inRange = true →
    exec (.timecalRsp s0 s1 now) s = .next
      { s with
        crc := crc16 covered ^^^ 0xFFFF, rsp := r ++ s.rsp.drop 16, rspLen := 16,
        result := .response (some r) }) ∧
  timecalBytes (Now.bcdBytes ⟨26, 11, 11, 6, 17, 5⟩) 0x00 0x07 =
    [0x78, 0x78, 0x0B, 0x8A, 0x26, 0x11, 0x11, 0x06, 0x17, 0x05, 0x00, 0x07, 0x7B, 0x03, 0x0D, 0x0A]

/-- `BUILD` (R135, R138): the time-calibration response for `8A`, the acknowledgment for the ids of
`ACK_SET`, nothing for every other id; each as the form it names. It completes for every id, every serial
and every time, with 16 bytes, 10 bytes or nothing. That `RSP` and `CRC` keep their values when nothing is
built is the model's choice (log 19), as is the field of the returned value (log 11). -/
def Obligations.BuildDecidesByProtocolId : Prop :=
  ∀ (pid s0 s1 : Byte) (now : Now) (s : State),
    (pid = 0x8A → exec (.build pid s0 s1 now) s = exec (.timecalRsp s0 s1 now) s) ∧
    (pid ∈ ([0x01, 0x13, 0x22, 0x26, 0x27, 0x28, 0x2A, 0xA0, 0xA1, 0xA4] : List Byte) →
      exec (.build pid s0 s1 now) s = exec (.ack pid s0 s1) s) ∧
    (pid ≠ 0x8A → pid ∉ ([0x01, 0x13, 0x22, 0x26, 0x27, 0x28, 0x2A, 0xA0, 0xA1, 0xA4] : List Byte) →
      exec (.build pid s0 s1 now) s = .next { s with rspLen := 0, result := .response none }) ∧
    ∃ t r, exec (.build pid s0 s1 now) s = .next t ∧ t.result = .response r ∧
      (r = none ∨ ∃ bs, r = some bs ∧ (bs.length = 10 ∨ bs.length = 16))

/-- The ten ids of `ACK_SET`, one rule each (R143 to R152): the header pattern `78 78 LL pp` selects the
kind, and `BUILD` returns `ACK(pid, serial)`; with the rules' examples, serial `00 01`. That `RSP[10..15]`
keep their bytes is the model's choice (log 19), as is the field of the returned value (log 11). -/
def Obligations.AckIdsGetTheAcknowledgment : Prop :=
  (∀ k ∈ ackKinds, ∀ (len : Byte) (tail rest : Bytes), tail.length = len.toNat + 1 →
    6 ≤ tail.length + rest.length + 4 →
    decode (0x78 :: 0x78 :: len :: k.1 :: (tail ++ rest)) = .instr (k.2 len tail) rest) ∧
  (∀ k ∈ ackKinds, ∀ (s0 s1 : Byte) (now : Now) (s : State),
    let r : Bytes :=
      [0x78, 0x78, 0x05, k.1, s0, s1, hi (crc16 [0x05, k.1, s0, s1]), lo (crc16 [0x05, k.1, s0, s1]), 0x0D, 0x0A]
    exec (.build k.1 s0 s1 now) s = .next
      { s with
        crc := crc16 [0x05, k.1, s0, s1] ^^^ 0xFFFF, rsp := r ++ s.rsp.drop 10, rspLen := 10,
        result := .response (some r) }) ∧
  ackKinds.map (fun k => (k.1, ackBytes k.1 0x00 0x01)) =
    [(0x01, [0x78, 0x78, 0x05, 0x01, 0x00, 0x01, 0xD9, 0xDC, 0x0D, 0x0A]),
     (0x13, [0x78, 0x78, 0x05, 0x13, 0x00, 0x01, 0xE9, 0xF1, 0x0D, 0x0A]),
     (0x22, [0x78, 0x78, 0x05, 0x22, 0x00, 0x01, 0x35, 0x83, 0x0D, 0x0A]),
     (0x26, [0x78, 0x78, 0x05, 0x26, 0x00, 0x01, 0x56, 0xE2, 0x0D, 0x0A]),
     (0x27, [0x78, 0x78, 0x05, 0x27, 0x00, 0x01, 0x0C, 0x3E, 0x0D, 0x0A]),
     (0x28, [0x78, 0x78, 0x05, 0x28, 0x00, 0x01, 0x46, 0xF9, 0x0D, 0x0A]),
     (0x2A, [0x78, 0x78, 0x05, 0x2A, 0x00, 0x01, 0xF3, 0x41, 0x0D, 0x0A]),
     (0xA0, [0x78, 0x78, 0x05, 0xA0, 0x00, 0x01, 0x8C, 0xD7, 0x0D, 0x0A]),
     (0xA1, [0x78, 0x78, 0x05, 0xA1, 0x00, 0x01, 0xD6, 0x0B, 0x0D, 0x0A]),
     (0xA4, [0x78, 0x78, 0x05, 0xA4, 0x00, 0x01, 0xEF, 0xB6, 0x0D, 0x0A])]

/-- The round trip of R129: the checksum embedded in every response of `BUILD` recomputes over the bytes from
`len` through the serial, time in range or not. For every response: the spec's derivation from R125, R126,
R136 and R137. -/
def Obligations.ResponseChecksumRecomputes : Prop :=
  ∀ (pid s0 s1 : Byte) (now : Now) (s t : State) (r : Bytes),
    exec (.build pid s0 s1 now) s = .next t → t.result = .response (some r) →
    be16 (r.getD (r.length - 4) 0) (r.getD (r.length - 3) 0) = crc16 ((r.drop 2).take (r.length - 6))

/-- Every response is itself a well-formed frame that carries the protocol id and, verbatim and in the same
order, the serial it answers, and ends with `0D 0A` (R142, R162, R68, R69). That a response is a frame is the
spec's derivation (R162). -/
def Obligations.ResponseIsAFrameThatEchoesTheSerial : Prop :=
  ∀ (pid s0 s1 : Byte) (now : Now) (s t : State) (r : Bytes),
    exec (.build pid s0 s1 now) s = .next t → t.result = .response (some r) →
    isFrame r = true ∧ r[3]? = some pid ∧ frameSerial r = some (s0, s1) ∧ frameTrailer r = [0x0D, 0x0A]

/-- Purity (R139): what `BUILD` returns does not depend on the state, and for every id but `8A` not on the
time either; for `8A` the time must be in range (R207 leaves the rest open). -/
def Obligations.BuildIsPure : Prop :=
  ∀ (pid s0 s1 : Byte) (n1 n2 : Now) (s1' s2' t1 t2 : State),
    pid ≠ 0x8A ∨ (n1 = n2 ∧ n1.inRange = true) →
    exec (.build pid s0 s1 n1) s1' = .next t1 → exec (.build pid s0 s1 n2) s2' = .next t2 →
    t1.result = t2.result

/-- `PROCESS` (R160) is `EXTRACT`, then, only with a serial, `BUILD` on a sample of `NOW` taken only for `8A`,
then the emission of the response, if any. No response to 5 bytes and the one trace are the spec's decisions
D8 and D9; what the other registers keep is log 19. -/
def Obligations.ProcessAnswersTheFrame : Prop :=
  ∀ (f : Bytes) (s : State), isFrame f = true →
    ∃ p, f[3]? = some p ∧
      (f.length = 5 → exec (.process f) s = .next { s with pid := p, serValid := false }) ∧
      (6 ≤ f.length → ∃ a b, f[f.length - 6]? = some a ∧ f[f.length - 5]? = some b ∧
        let s1 : State := { s with pid := p, ser0 := a, ser1 := b, serValid := true }
        (p ∈ ackSet → exec (.process f) s = .next
          { s1 with
            crc := crc16 [0x05, p, a, b] ^^^ 0xFFFF, rsp := ackBytes p a b ++ s.rsp.drop 10, rspLen := 10,
            trace := s.trace ++ [.rsp (ackBytes p a b)] }) ∧
        (p = 0x8A → s.nowValue.inRange = true → exec (.process f) s = .next
          { s1.nowTaken with
            crc := crc16 ([0x0B, 0x8A] ++ s.nowValue.bcdBytes ++ [a, b]) ^^^ 0xFFFF,
            rsp := timecalBytes s.nowValue.bcdBytes a b ++ s.rsp.drop 16, rspLen := 16,
            trace := s.trace ++ [.rsp (timecalBytes s.nowValue.bcdBytes a b)] }) ∧
        (p ∉ ackSet → p ≠ 0x8A → exec (.process f) s = .next { s1 with rspLen := 0 }))

/-- The response depends on the frame only through its protocol id and its two serial bytes: two frames that
agree in them are processed alike, whatever their length, payload, checksum and trailer (R161). The spec
derives it from R100 and R135. -/
def Obligations.ResponseDependsOnIdAndSerialOnly : Prop :=
  ∀ (f g : Bytes) (s : State), isFrame f = true → isFrame g = true → f[3]? = g[3]? →
    frameSerial f = frameSerial g → exec (.process f) s = exec (.process g) s

/-- Packed BCD (R141): tens digit in the high nibble, units digit in the low nibble, for 0..99; with the
rule's examples. That the order holds for the response is the spec's decision D11. -/
def Obligations.BcdPutsTheTensDigitHigh : Prop :=
  (∀ v, v ≤ 99 → (bcd v).extractLsb' 4 4 = BitVec.ofNat 4 (v / 10) ∧ (bcd v).extractLsb' 0 4 = BitVec.ofNat 4 (v % 10)) ∧
  [0, 9, 10, 26, 59, 99].map bcd = [0x00, 0x09, 0x10, 0x26, 0x59, 0x99]

/-- The conditions of Table R201 as the outcomes of the steps that meet them, in the order of R210. An
iteration of the pass: the stall (R202) is exactly the end of the loop with `OFF` unchanged, met on fewer
than 6 bytes whatever they are, or at a matched sync with fewer bytes than `len + 5`; the desync (R203) is
exactly the skip of one byte; with neither a frame is emitted. `PROCESS`: without a serial (R206) nothing is
answered whatever the id, and that is exactly `SER_VALID` 0; then an id with neither answer emits nothing, the
ids without an entry (R205) like the five named ones; then `8A` is answered, its time bytes open only when the
time is out of range (R207). Nothing but `FL` records a condition of the pass. The order is the spec's
derivation from R93 and R160, no response to 5 bytes its decision D8 (log 15), the time D10 (log 9), the
iteration and the control position log 6. -/
def Obligations.ConditionsFollowTheTestOrder : Prop :=
  (∀ s : State, StateInv s → s.ctl = .scan →
    (passCondition s.window = some .framingStall ↔
      ∃ fl, passIteration s = .next { s with fl := fl, ctl := .compact }) ∧
    (passCondition s.window = some .framingDesync ↔
      passIteration s = .next { s with off := s.off + 1, ctl := .scan }) ∧
    (passCondition s.window = none ↔
      ∃ f rest t, s.window = f ++ rest ∧ isFrame f = true ∧ passIteration s = .next t ∧
        t.off = s.off + f.length ∧ s.trace ++ [.frm f] <+: t.trace) ∧
    (s.avail < 6 → passIteration s = .next { s with ctl := .compact }) ∧
    (6 ≤ s.avail → ¬ startsSync s.window → passIteration s = .next { s with off := s.off + 1, ctl := .scan }) ∧
    (∀ len more, s.window = 0x78 :: 0x78 :: len :: more → 6 ≤ s.avail → s.avail < len.toNat + 5 →
      passIteration s = .next { s with fl := frameLength9 len, ctl := .compact })) ∧
  ∀ (f : Bytes) (s : State), isFrame f = true →
    ∃ p t, f[3]? = some p ∧ exec (.process f) s = .next t ∧
      let met := processCondition f s.nowValue
      let unanswered := p ≠ 0x8A ∧ p ∉ ackSet
      (met = some .serialAbsent ↔ t.serValid = false) ∧
      (t.serValid = false ↔ f.length = 5) ∧
      (t.serValid = false → t.trace = s.trace) ∧
      (t.serValid = true ∧ t.trace = s.trace ↔ 6 ≤ f.length ∧ unanswered) ∧
      (met = some .unknownProtocol ↔
        t.serValid = true ∧ t.trace = s.trace ∧ p ∉ silentKinds.map Prod.fst) ∧
      (met = some .timeOutOfRange ↔ t.serValid = true ∧ p = 0x8A ∧ s.nowValue.inRange = false) ∧
      (t.serValid = true → p = 0x8A → ∃ time a b, time.length = 6 ∧ frameSerial f = some (a, b) ∧
        t.trace = s.trace ++ [.rsp (timecalBytes time a b)] ∧
        (met ≠ some .timeOutOfRange → time = s.nowValue.bcdBytes))

/-! ### RESET -/

/-- `RESET` (R225): `BUF_LEN` and `OFF` become 0 and no byte of `BUF` is left to read; it emits nothing and
does not touch what was emitted, the platform's side or the value last returned; the block is at rest. The
operation is the spec's decision D6; that it leaves the platform's side alone is the model's (log 4, log 7).
-/
def Obligations.ResetEmptiesTheBlock : Prop :=
  ∀ s : State, ∃ t, exec .reset s = .next t ∧ t.bufLen = 0 ∧ t.off = 0 ∧ (∀ a, Memory.read t.buf a = none) ∧
    t.ctl = .rest ∧ t.trace = s.trace ∧ t.pending = s.pending ∧ t.nowPort = s.nowPort ∧ t.draws = s.draws ∧
    t.result = s.result

/-- Applying `RESET` to a block that is already reset, one that a `RESET` has just left, changes nothing (R227).
The spec's decision D6; it holds of the unspecified registers too, because the model gives them constants
(log 4). Of `State.reset`, which no `RESET` has left, it does not speak: there the unspecified registers may
change (the model's choice, log 22). -/
def Obligations.ResetTwiceChangesNothing : Prop :=
  ∀ s t : State, exec .reset s = .next t → exec .reset t = .next t

/-- The block has no memory of the earlier stream after `RESET` (R225, R227): from any two states whatever,
with the same time input, `RESET` and then the same bytes emit the same events and retain the same bytes. The
spec's decision D6; the unspecified registers are log 4. -/
def Obligations.ResetForgetsTheEarlierStream : Prop :=
  ∀ (s1 s2 : State) (c : Bytes), s1.nowPort = s2.nowPort → s1.draws = s2.draws →
    ∃ (events : List Event) (t1 t2 : State),
      andThen (exec .reset s1) (exec (.feed c)) = .next t1 ∧ andThen (exec .reset s2) (exec (.feed c)) = .next t2 ∧
      t1.trace = s1.trace ++ events ∧ t2.trace = s2.trace ++ events ∧ t1.buf = t2.buf ∧ t1.bufLen = t2.bufLen

/-- The registers whose value the spec leaves open cannot be observed (R20, R225, R226): at rest, whatever
`FL`, `CRC`, `RSP`, `RSP_LEN`, `PID`, `SER` and `SER_VALID` hold, a `FEED` emits the same events and retains
the same bytes. That they keep their last value is the model's choice (log 5). -/
def Obligations.TransientRegistersAreUnobservable : Prop :=
  ∀ (s : State) (c : Bytes) (fl : Word9) (crc : Word16) (rsp : Bytes) (rspLen : Nat) (pid ser0 ser1 : Byte)
    (serValid : Bool), AtRest s →
    ∃ t1 t2 : State, exec (.feed c) s = .next t1 ∧
      exec (.feed c)
        { s with
          fl := fl, crc := crc, rsp := rsp, rspLen := rspLen, pid := pid, ser0 := ser0, ser1 := ser1,
          serValid := serValid } = .next t2 ∧
      t1.trace = t2.trace ∧ t1.buf = t2.buf ∧ t1.bufLen = t2.bufLen ∧ t1.off = t2.off ∧ t1.nowPort = t2.nowPort ∧
      t1.draws = t2.draws
end

