-- ==== Sys2Proof/Laws/Crc.lean ====
section
/-! SUPPORT. The checksum arithmetic. -/

namespace Sys2Proof

/-- `CRC.FINAL` undone: the register is the complement of the checksum (41_crc.md R123). -/
@[simp] theorem crc16_complement (m : Bytes) : crc16 m ^^^ 0xFFFF = crcRegister m := by
  simp [crc16, crcFinish]

/-- Assembling the two halves of a `u16` gives it back (00_scope.md R8). -/
@[simp] theorem be16_hi_lo (w : Word16) : be16 (hi w) (lo w) = w := by
  unfold be16 hi lo
  apply BitVec.eq_of_getLsbD_eq
  intro i hi
  simp only [BitVec.getLsbD_append, BitVec.getLsbD_extractLsb']
  split
  · rename_i h
    simp [h]
  · rw [show 8 + (i - 8) = i by omega]
    simp
    omega

/-- The register after a longer sequence: the rest of it run from the register so far (R120). -/
theorem crcRegister_append (m n : Bytes) : crcRegister (m ++ n) = n.foldl crcByte (crcRegister m) := by
  simp [crcRegister]

theorem crcShifts_add (a b : Nat) (c : Word16) : crcShifts (a + b) c = crcShifts b (crcShifts a c) := by
  induction a generalizing c with
  | zero => simp [crcShifts]
  | succ a ih => rw [Nat.succ_add, crcShifts, crcShifts, ih]

end Sys2Proof
end

