-- ==== Sys2Proof/Laws/Decode.lean ====
section
/-! SUPPORT. What the decoder, the encoder and the byte layouts can do, said once. -/

namespace Sys2Proof

theorem minAvail_eq : minAvail = 6 := rfl

theorem frameLength_eq (len : Byte) : frameLength len = len.toNat + 5 := rfl

/-- `FL` never wraps: its nine bits hold `len + 5` (10_state.md R23). -/
@[simp] theorem frameLength9_toNat (len : Byte) : (frameLength9 len).toNat = frameLength len := by
  have h := len.isLt
  simp [frameLength9, frameLength, lenBias, BitVec.toNat_add]
  omega

theorem frameBytes_length (len pid : Byte) (tail : Bytes) : (frameBytes len pid tail).length = tail.length + 4 := rfl

/-- A frame is the bytes of a header and of a tail that fits it. -/
theorem isFrame_iff (f : Bytes) :
    isFrame f = true ↔ ∃ len pid tail, f = frameBytes len pid tail ∧ tail.length = len.toNat + 1 := by
  constructor
  · intro h
    match f, h with
    | a :: b :: len :: [], h => simp [isFrame, frameLength, lenBias] at h
    | a :: b :: len :: pid :: tail, h =>
      simp only [isFrame, Bool.and_eq_true, beq_iff_eq, frameLength, lenBias, List.length_cons] at h
      obtain ⟨⟨rfl, rfl⟩, h⟩ := h
      exact ⟨len, pid, tail, rfl, by omega⟩
  · rintro ⟨len, pid, tail, rfl, h⟩
    simp [isFrame, frameBytes, frameLength, lenBias, h]

theorem isFrame_length {f : Bytes} (h : isFrame f = true) : 5 ≤ f.length ∧ f.length ≤ 260 := by
  obtain ⟨len, pid, tail, rfl, ht⟩ := (isFrame_iff f).1 h
  have := len.isLt
  rw [frameBytes_length]
  omega

/-! ### The decoder -/

theorem decode_of_short {bs : Bytes} (h : bs.length < 6) : decode bs = .reject .short := by
  unfold decode
  rw [if_pos (by simpa [minAvail] using h)]

theorem decode_of_mismatch {a b : Byte} {bs : Bytes} (h : 6 ≤ (a :: b :: bs).length)
    (hm : ¬ (a = syncByte ∧ b = syncByte)) : decode (a :: b :: bs) = .instr (.nonsync a b) (b :: bs) := by
  match bs, h with
  | len :: pid :: more, h =>
    unfold decode
    rw [if_neg (by simpa [minAvail] using h)]
    simp only [if_neg hm]
  | [_], h => simp at h
  | [], h => simp at h

theorem decode_of_incomplete {len : Byte} {more : Bytes}
    (h : 6 ≤ (syncByte :: syncByte :: len :: more).length)
    (hw : (syncByte :: syncByte :: len :: more).length < frameLength len) :
    decode (syncByte :: syncByte :: len :: more) = .reject (.incomplete (frameLength len)) := by
  match more, h, hw with
  | pid :: more, h, hw =>
    unfold decode
    rw [if_neg (by simpa [minAvail] using h)]
    simp only [and_self, if_true, if_pos hw]
  | [], h, _ => simp at h

theorem decode_of_frame {len pid : Byte} {tail rest : Bytes} (ht : tail.length = len.toNat + 1)
    (h : 6 ≤ (frameBytes len pid tail ++ rest).length) :
    decode (frameBytes len pid tail ++ rest) = .instr (frameInstr len pid tail) rest := by
  simp only [frameBytes, List.cons_append] at h ⊢
  unfold decode
  rw [if_neg (by simpa [minAvail] using h)]
  simp only [and_self, if_true]
  rw [if_neg (by simp [frameLength, lenBias, ht]; omega), ← ht]
  simp

/-- Every byte sequence falls under exactly one of the four cases of 40_framer.md R93: too short, a
mismatch, an incomplete frame, or a complete one. -/
theorem decode_cases (bs : Bytes) :
    (bs.length < 6 ∧ decode bs = .reject .short) ∨
    (∃ a b more, bs = a :: b :: more ∧ 6 ≤ bs.length ∧ ¬ (a = syncByte ∧ b = syncByte) ∧
      decode bs = .instr (.nonsync a b) (b :: more)) ∨
    (∃ len more, bs = syncByte :: syncByte :: len :: more ∧ 6 ≤ bs.length ∧ bs.length < frameLength len ∧
      decode bs = .reject (.incomplete (frameLength len))) ∨
    (∃ len pid tail rest, bs = frameBytes len pid tail ++ rest ∧ 6 ≤ bs.length ∧ tail.length = len.toNat + 1 ∧
      decode bs = .instr (frameInstr len pid tail) rest) := by
  by_cases hs : bs.length < 6
  · exact .inl ⟨hs, decode_of_short hs⟩
  · have hs : 6 ≤ bs.length := Nat.le_of_not_lt hs
    match bs, hs with
    | a :: b :: len :: pid :: more, hs =>
      by_cases hm : a = syncByte ∧ b = syncByte
      · obtain ⟨rfl, rfl⟩ := hm
        by_cases hw : (syncByte :: syncByte :: len :: pid :: more).length < frameLength len
        · exact .inr (.inr (.inl ⟨len, pid :: more, rfl, hs, hw, decode_of_incomplete hs hw⟩))
        · have hl : len.toNat + 1 ≤ more.length := by
            simp only [List.length_cons, frameLength, lenBias] at hw
            omega
          have he : syncByte :: syncByte :: len :: pid :: more
              = frameBytes len pid (more.take (len.toNat + 1)) ++ more.drop (len.toNat + 1) := by
            simp [frameBytes]
          have ht : (more.take (len.toNat + 1)).length = len.toNat + 1 := by simp [hl]
          exact .inr (.inr (.inr ⟨len, pid, _, _, he, hs, ht, he ▸ decode_of_frame ht (he ▸ hs)⟩))
      · exact .inr (.inl ⟨a, b, len :: pid :: more, rfl, hs, hm, decode_of_mismatch hs hm⟩)

/-! ### The protocol-id map -/

/-- A property of every frame kind that holds of each of the seventeen rows holds of what the map
selects. -/
theorem frameInstr_cases {P : Byte → Instr → Prop} (len pid : Byte) (tail : Bytes)
    (h01 : P 0x01 (.login len tail)) (h13 : P 0x13 (.heartbeat len tail)) (h17 : P 0x17 (.addrCn len tail))
    (h21 : P 0x21 (.respOnline len tail)) (h22 : P 0x22 (.gps len tail)) (h26 : P 0x26 (.alarm len tail))
    (h27 : P 0x27 (.id27 len tail)) (h28 : P 0x28 (.lbsMulti len tail)) (h2A : P 0x2A (.addrReq len tail))
    (h80 : P 0x80 (.onlineCmd len tail)) (h8A : P 0x8A (.timeCal len tail)) (h94 : P 0x94 (.infoXfer len tail))
    (h97 : P 0x97 (.addrEn len tail)) (hA0 : P 0xA0 (.gpsA0 len tail)) (hA1 : P 0xA1 (.lbs4g len tail))
    (hA4 : P 0xA4 (.fenceAlarm len tail)) (hother : pid ∉ namedPids → P pid (.other len pid tail)) :
    P pid (frameInstr len pid tail) := by
  by_cases e01 : pid = 0x01
  · subst e01; exact h01
  by_cases e13 : pid = 0x13
  · subst e13; exact h13
  by_cases e17 : pid = 0x17
  · subst e17; exact h17
  by_cases e21 : pid = 0x21
  · subst e21; exact h21
  by_cases e22 : pid = 0x22
  · subst e22; exact h22
  by_cases e26 : pid = 0x26
  · subst e26; exact h26
  by_cases e27 : pid = 0x27
  · subst e27; exact h27
  by_cases e28 : pid = 0x28
  · subst e28; exact h28
  by_cases e2A : pid = 0x2A
  · subst e2A; exact h2A
  by_cases e80 : pid = 0x80
  · subst e80; exact h80
  by_cases e8A : pid = 0x8A
  · subst e8A; exact h8A
  by_cases e94 : pid = 0x94
  · subst e94; exact h94
  by_cases e97 : pid = 0x97
  · subst e97; exact h97
  by_cases eA0 : pid = 0xA0
  · subst eA0; exact hA0
  by_cases eA1 : pid = 0xA1
  · subst eA1; exact hA1
  by_cases eA4 : pid = 0xA4
  · subst eA4; exact hA4
  have hn : pid ∉ namedPids := by
    simp only [namedPids, List.mem_cons, List.not_mem_nil, e01, e13, e17, e21, e22, e26, e27, e28, e2A, e80, e8A, e94, e97, eA0, eA1, eA4, or_self, not_false_eq_true]
  have he : frameInstr len pid tail = .other len pid tail := by
    simp only [frameInstr, if_neg, e01, e13, e17, e21, e22, e26, e27, e28, e2A, e80, e8A, e94, e97, eA0, eA1, eA4, not_false_eq_true]
  rw [he]
  exact hother hn

/-- Encoding what the map selects gives the frame's own bytes. -/
@[simp] theorem encode_frameInstr (len pid : Byte) (tail : Bytes) :
    encode (frameInstr len pid tail) = some (frameBytes len pid tail) :=
  frameInstr_cases (P := fun p i => encode i = some (frameBytes len p tail)) len pid tail
    rfl rfl rfl rfl rfl rfl rfl rfl rfl rfl rfl rfl rfl rfl rfl rfl fun _ => rfl

@[simp] theorem isStreamForm_frameInstr (len pid : Byte) (tail : Bytes) :
    (frameInstr len pid tail).isStreamForm = true :=
  frameInstr_cases (P := fun _ i => i.isStreamForm = true) len pid tail
    rfl rfl rfl rfl rfl rfl rfl rfl rfl rfl rfl rfl rfl rfl rfl rfl fun _ => rfl

theorem tailFits_iff {len : Byte} {tail : Bytes} : tailFits len tail = true ↔ tail.length = len.toNat + 1 := by
  simp [tailFits]

theorem frameInstr_ne_nonsync (len pid : Byte) (tail : Bytes) (a b : Byte) :
    frameInstr len pid tail ≠ .nonsync a b :=
  frameInstr_cases (P := fun _ i => i ≠ .nonsync a b) len pid tail
    nofun nofun nofun nofun nofun nofun nofun nofun nofun nofun nofun nofun nofun nofun nofun nofun fun _ => nofun

theorem wellFormed_frameInstr {len : Byte} (pid : Byte) {tail : Bytes} (h : tail.length = len.toNat + 1) :
    (frameInstr len pid tail).wellFormed = true := by
  have ht := tailFits_iff.2 h
  refine frameInstr_cases (P := fun _ i => i.wellFormed = true) len pid tail
    ht ht ht ht ht ht ht ht ht ht ht ht ht ht ht ht fun hn => ?_
  simp only [Instr.wellFormed, ht, Bool.true_and, Bool.not_eq_true', List.contains_eq_mem, decide_eq_false_iff_not]
  exact hn

/-- A well-formed stream form is a byte pair that is no sync, or what the map selects for a frame. -/
theorem streamForm_cases (i : Instr) (hw : i.wellFormed = true) (hs : i.isStreamForm = true) :
    (∃ a b, i = .nonsync a b ∧ ¬ (a = syncByte ∧ b = syncByte)) ∨
    ∃ len pid tail, i = frameInstr len pid tail ∧ tail.length = len.toNat + 1 := by
  cases i
  case other len pid tail =>
    right
    simp only [Instr.wellFormed, Bool.and_eq_true, tailFits_iff] at hw
    refine ⟨len, pid, tail, ?_, hw.1⟩
    have hp := hw.2
    simp only [Bool.not_eq_true', List.contains_eq_mem, decide_eq_false_iff_not] at hp
    simp only [namedPids, List.mem_cons, List.not_mem_nil, or_false, not_or] at hp
    simp only [frameInstr, if_neg, hp, not_false_eq_true]
  case nonsync a b =>
    left
    refine ⟨a, b, rfl, fun h => ?_⟩
    simp [Instr.wellFormed, h] at hw
  case login len tail => exact .inr ⟨len, 0x01, tail, rfl, tailFits_iff.1 hw⟩
  case heartbeat len tail => exact .inr ⟨len, 0x13, tail, rfl, tailFits_iff.1 hw⟩
  case addrCn len tail => exact .inr ⟨len, 0x17, tail, rfl, tailFits_iff.1 hw⟩
  case respOnline len tail => exact .inr ⟨len, 0x21, tail, rfl, tailFits_iff.1 hw⟩
  case gps len tail => exact .inr ⟨len, 0x22, tail, rfl, tailFits_iff.1 hw⟩
  case alarm len tail => exact .inr ⟨len, 0x26, tail, rfl, tailFits_iff.1 hw⟩
  case id27 len tail => exact .inr ⟨len, 0x27, tail, rfl, tailFits_iff.1 hw⟩
  case lbsMulti len tail => exact .inr ⟨len, 0x28, tail, rfl, tailFits_iff.1 hw⟩
  case addrReq len tail => exact .inr ⟨len, 0x2A, tail, rfl, tailFits_iff.1 hw⟩
  case onlineCmd len tail => exact .inr ⟨len, 0x80, tail, rfl, tailFits_iff.1 hw⟩
  case timeCal len tail => exact .inr ⟨len, 0x8A, tail, rfl, tailFits_iff.1 hw⟩
  case infoXfer len tail => exact .inr ⟨len, 0x94, tail, rfl, tailFits_iff.1 hw⟩
  case addrEn len tail => exact .inr ⟨len, 0x97, tail, rfl, tailFits_iff.1 hw⟩
  case gpsA0 len tail => exact .inr ⟨len, 0xA0, tail, rfl, tailFits_iff.1 hw⟩
  case lbs4g len tail => exact .inr ⟨len, 0xA1, tail, rfl, tailFits_iff.1 hw⟩
  case fenceAlarm len tail => exact .inr ⟨len, 0xA4, tail, rfl, tailFits_iff.1 hw⟩
  all_goals exact absurd hs (by simp [Instr.isStreamForm])

/-! ### The response layouts -/

theorem sealResponse_length (covered : Bytes) : (sealResponse covered).length = covered.length + 6 := by
  simp [sealResponse]

@[simp] theorem ackBytes_length (pid s0 s1 : Byte) : (ackBytes pid s0 s1).length = 10 := rfl

theorem timecalBytes_length {time : Bytes} (s0 s1 : Byte) (h : time.length = 6) :
    (timecalBytes time s0 s1).length = 16 := by
  simp [timecalBytes, sealResponse_length, timecalCovered, h]

end Sys2Proof
end

