-- ==== Sys2Proof/Laws/Memory.lean ====
section
/-! SUPPORT. The laws of the stream buffer: read after write, the canonical form, and what every operation
does to a buffer that holds exactly the bytes `bs` at indices 0, 1, 2, … -/

namespace Sys2Proof.Machine

/-! ### Reading and writing one byte -/

theorem Memory.read_nil (a : Nat) : Memory.read [] a = none := rfl

theorem Memory.read_cons (x : Nat) (b : Byte) (m : Memory) (a : Nat) :
    Memory.read ((x, b) :: m) a = if x = a then some b else Memory.read m a := rfl

theorem Memory.read_write_same (m : Memory) (a : Nat) (b : Byte) :
    Memory.read (Memory.write m a b) a = some b := by
  induction m with
  | nil => simp [Memory.write, Memory.read]
  | cons c m ih =>
    obtain ⟨x, v⟩ := c
    unfold Memory.write
    split
    · simp [Memory.read]
    · split
      · simp [Memory.read]
      · rename_i h
        simp [Memory.read, Ne.symm h, ih]

theorem Memory.read_write_other (m : Memory) {a c : Nat} (b : Byte) (h : c ≠ a) :
    Memory.read (Memory.write m a b) c = Memory.read m c := by
  induction m with
  | nil => simp [Memory.write, Memory.read, Ne.symm h, Memory.unlisted]
  | cons d m ih =>
    obtain ⟨x, v⟩ := d
    unfold Memory.write
    split
    · simp [Memory.read, Ne.symm h]
    · split
      · rename_i h2
        subst h2
        simp [Memory.read, Ne.symm h]
      · simp [Memory.read, ih]

/-- A run of writes leaves every byte below it alone. -/
theorem Memory.read_writeRun_below (bs : Bytes) (m : Memory) {a c : Nat} (h : c < a) :
    Memory.read (Memory.writeRun m a bs) c = Memory.read m c := by
  induction bs generalizing m a with
  | nil => rfl
  | cons b bs ih =>
    rw [Memory.writeRun, ih _ (by omega), Memory.read_write_other _ _ (by omega)]

/-- A run of writes leaves every byte above it alone. -/
theorem Memory.read_writeRun_above (bs : Bytes) (m : Memory) {a c : Nat} (h : a + bs.length ≤ c) :
    Memory.read (Memory.writeRun m a bs) c = Memory.read m c := by
  induction bs generalizing m a with
  | nil => rfl
  | cons b bs ih =>
    rw [List.length_cons] at h
    rw [Memory.writeRun, ih _ (by omega), Memory.read_write_other _ _ (by omega)]

/-- A run of writes stores its bytes in order. -/
theorem Memory.read_writeRun_inside (bs : Bytes) (m : Memory) (a i : Nat) (h : i < bs.length) :
    Memory.read (Memory.writeRun m a bs) (a + i) = bs[i]? := by
  induction bs generalizing m a i with
  | nil => simp at h
  | cons b bs ih =>
    rw [Memory.writeRun]
    cases i with
    | zero => simp [Memory.read_writeRun_below bs _ (Nat.lt_succ_self a), Memory.read_write_same]
    | succ i =>
      have := ih (Memory.write m a b) (a + 1) i (by simpa using h)
      rw [show a + (i + 1) = a + 1 + i by omega, this]
      simp

/-! ### The canonical form -/

theorem Memory.wf_iff_pairwise (m : Memory) :
    Memory.wf m = true ↔ List.Pairwise (fun c d : Host.Cell => c.1 < d.1) m := by
  induction m with
  | nil => simp [Memory.wf]
  | cons c m ih =>
    cases m with
    | nil => simp [Memory.wf]
    | cons d m =>
      obtain ⟨x, u⟩ := c
      obtain ⟨y, v⟩ := d
      rw [Memory.wf, Bool.and_eq_true, ih]
      constructor
      · rintro ⟨h, hp⟩
        refine List.pairwise_cons.2 ⟨?_, hp⟩
        intro e he
        have hxy : x < y := by simpa using h
        rcases List.mem_cons.1 he with rfl | he
        · exact hxy
        · exact Nat.lt_trans hxy ((List.pairwise_cons.1 hp).1 e he)
      · intro hp
        exact ⟨by simpa using (List.pairwise_cons.1 hp).1 (y, v) (by simp), (List.pairwise_cons.1 hp).2⟩

theorem Memory.mem_write {m : Memory} {a : Nat} {b : Byte} {c : Host.Cell} (h : c ∈ Memory.write m a b) :
    c = (a, b) ∨ c ∈ m := by
  induction m with
  | nil => simpa [Memory.write] using h
  | cons d m ih =>
    obtain ⟨x, v⟩ := d
    unfold Memory.write at h
    split at h
    · rcases List.mem_cons.1 h with h | h
      · exact .inl h
      · exact .inr h
    · split at h
      · rcases List.mem_cons.1 h with h | h
        · exact .inl h
        · exact .inr (List.mem_cons_of_mem _ h)
      · rcases List.mem_cons.1 h with h | h
        · exact .inr (by simp [h])
        · rcases ih h with h | h
          · exact .inl h
          · exact .inr (List.mem_cons_of_mem _ h)

theorem Memory.wf_write {m : Memory} (a : Nat) (b : Byte) (h : Memory.wf m = true) :
    Memory.wf (Memory.write m a b) = true := by
  rw [Memory.wf_iff_pairwise] at h ⊢
  induction m with
  | nil => simp [Memory.write]
  | cons d m ih =>
    obtain ⟨x, v⟩ := d
    have hd := List.pairwise_cons.1 h
    unfold Memory.write
    split
    · rename_i hax
      refine List.pairwise_cons.2 ⟨?_, h⟩
      intro e he
      rcases List.mem_cons.1 he with rfl | he
      · exact hax
      · exact Nat.lt_trans hax (hd.1 e he)
    · split
      · rename_i hax
        subst hax
        exact List.pairwise_cons.2 ⟨hd.1, hd.2⟩
      · refine List.pairwise_cons.2 ⟨?_, ih hd.2⟩
        intro e he
        rcases Memory.mem_write he with rfl | he
        · show x < a
          omega
        · exact hd.1 e he

theorem Memory.wf_writeRun (bs : Bytes) {m : Memory} (a : Nat) (h : Memory.wf m = true) :
    Memory.wf (Memory.writeRun m a bs) = true := by
  induction bs generalizing m a with
  | nil => exact h
  | cons b bs ih => exact ih (a + 1) (Memory.wf_write a b h)

theorem Memory.wf_moveDown {m : Memory} (off len : Nat) (h : Memory.wf m = true) :
    Memory.wf (Memory.moveDown m off len) = true := by
  rw [Memory.wf_iff_pairwise] at h ⊢
  unfold Memory.moveDown
  rw [List.pairwise_map]
  refine List.Pairwise.imp_of_mem ?_ (h.filter _)
  intro c d hc hd hcd
  have h1 := (List.mem_filter.1 hc).2
  have h2 := (List.mem_filter.1 hd).2
  simp only [Bool.and_eq_true, decide_eq_true_eq] at h1 h2
  show c.1 - off < d.1 - off
  omega

/-! ### A buffer that holds exactly the bytes `bs` -/

theorem Memory.length_cellsFrom (a : Nat) (bs : Bytes) : (Memory.cellsFrom a bs).length = bs.length := by
  induction bs generalizing a with
  | nil => rfl
  | cons b bs ih => simp [Memory.cellsFrom, ih]

theorem Memory.mem_cellsFrom {a : Nat} {bs : Bytes} {c : Host.Cell} (h : c ∈ Memory.cellsFrom a bs) :
    a ≤ c.1 ∧ c.1 < a + bs.length := by
  induction bs generalizing a with
  | nil => simp [Memory.cellsFrom] at h
  | cons b bs ih =>
    rcases List.mem_cons.1 h with rfl | h
    · simp
    · have := ih h
      simp only [List.length_cons]
      omega

theorem Memory.wf_cellsFrom (a : Nat) (bs : Bytes) : Memory.wf (Memory.cellsFrom a bs) = true := by
  rw [Memory.wf_iff_pairwise]
  induction bs generalizing a with
  | nil => simp [Memory.cellsFrom]
  | cons b bs ih =>
    refine List.pairwise_cons.2 ⟨?_, ih (a + 1)⟩
    intro c hc
    have := Memory.mem_cellsFrom hc
    show a < c.1
    omega

theorem Memory.wf_ofBytes (bs : Bytes) : Memory.wf (Memory.ofBytes bs) = true := Memory.wf_cellsFrom 0 bs

theorem Memory.bytes_cellsFrom (a : Nat) (bs : Bytes) : Memory.bytes (Memory.cellsFrom a bs) = bs := by
  induction bs generalizing a with
  | nil => rfl
  | cons b bs ih => simpa [Memory.bytes, Memory.cellsFrom] using ih (a + 1)

@[simp] theorem Memory.bytes_ofBytes (bs : Bytes) : Memory.bytes (Memory.ofBytes bs) = bs :=
  Memory.bytes_cellsFrom 0 bs

theorem Memory.length_ofBytes (bs : Bytes) : (Memory.ofBytes bs).length = bs.length :=
  Memory.length_cellsFrom 0 bs

theorem Memory.read_cellsFrom (bs : Bytes) (x a : Nat) :
    Memory.read (Memory.cellsFrom x bs) a = if x ≤ a then bs[a - x]? else none := by
  induction bs generalizing x with
  | nil => simp [Memory.cellsFrom, Memory.read, Memory.unlisted]
  | cons b bs ih =>
    rw [Memory.cellsFrom, Memory.read, ih]
    by_cases h : x = a
    · subst h; simp
    · by_cases h2 : x ≤ a
      · have h3 : x + 1 ≤ a := by omega
        rw [if_neg h, if_pos h3, if_pos h2, show a - x = (a - (x + 1)) + 1 by omega]
        simp
      · have h3 : ¬ x + 1 ≤ a := by omega
        rw [if_neg h, if_neg h3, if_neg h2]

/-- `BUF[a]` is the byte at place `a` of the sequence held. -/
@[simp] theorem Memory.read_ofBytes (bs : Bytes) (a : Nat) : Memory.read (Memory.ofBytes bs) a = bs[a]? := by
  simp [Memory.ofBytes, Memory.read_cellsFrom]

theorem Memory.readRun_cellsFrom (bs : Bytes) (x a n : Nat) (hx : x ≤ a) (h : a + n ≤ x + bs.length) :
    Memory.readRun (Memory.cellsFrom x bs) a n = some ((bs.drop (a - x)).take n) := by
  induction bs generalizing x a n with
  | nil =>
    have : n = 0 := by simp only [List.length_nil] at h; omega
    subst this
    simp [Memory.cellsFrom, Memory.readRun]
  | cons b bs ih =>
    rw [Memory.cellsFrom]
    cases n with
    | zero => simp [Memory.readRun]
    | succ n =>
      rw [Memory.readRun]
      simp only [List.length_cons] at h
      by_cases h1 : x < a
      · rw [if_pos h1, ih (x + 1) a (n + 1) (by omega) (by omega),
          show a - x = (a - (x + 1)) + 1 by omega, List.drop_succ_cons]
      · have h2 : x = a := by omega
        subst h2
        rw [if_neg h1, if_pos rfl, ih (x + 1) (x + 1) n (by omega) (by omega)]
        simp

/-- `BUF[a .. a+n-1]` is the run of the sequence held, when it reaches that far. -/
theorem Memory.readRun_ofBytes (bs : Bytes) (a n : Nat) (h : a + n ≤ bs.length) :
    Memory.readRun (Memory.ofBytes bs) a n = some ((bs.drop a).take n) := by
  simpa [Memory.ofBytes] using Memory.readRun_cellsFrom bs 0 a n (Nat.zero_le _) (by omega)

theorem Memory.readRun_cellsFrom_none (bs : Bytes) (x a n : Nat) (hn : 0 < n) (hx : x ≤ a)
    (h : x + bs.length < a + n) : Memory.readRun (Memory.cellsFrom x bs) a n = none := by
  induction bs generalizing x a n with
  | nil =>
    obtain ⟨n, rfl⟩ : ∃ k, n = k + 1 := ⟨n - 1, by omega⟩
    simp [Memory.cellsFrom, Memory.readRun]
  | cons b bs ih =>
    obtain ⟨n, rfl⟩ : ∃ k, n = k + 1 := ⟨n - 1, by omega⟩
    rw [Memory.cellsFrom, Memory.readRun]
    simp only [List.length_cons] at h
    by_cases h1 : x < a
    · rw [if_pos h1, ih (x + 1) a (n + 1) (by omega) (by omega) (by omega)]
    · have h2 : x = a := by omega
      subst h2
      rw [if_neg h1, if_pos rfl, ih (x + 1) (x + 1) n (by omega) (by omega) (by omega)]
      rfl

/-- A run that reaches past the bytes held does not exist. -/
theorem Memory.readRun_ofBytes_none (bs : Bytes) (a n : Nat) (hn : 0 < n) (h : bs.length < a + n) :
    Memory.readRun (Memory.ofBytes bs) a n = none := by
  simpa [Memory.ofBytes] using Memory.readRun_cellsFrom_none bs 0 a n hn (Nat.zero_le _) (by omega)

theorem Memory.write_cellsFrom_end (bs : Bytes) (x : Nat) (b : Byte) :
    Memory.write (Memory.cellsFrom x bs) (x + bs.length) b = Memory.cellsFrom x (bs ++ [b]) := by
  induction bs generalizing x with
  | nil => simp [Memory.cellsFrom, Memory.write]
  | cons c bs ih =>
    have := ih (x + 1)
    rw [show x + 1 + bs.length = x + (c :: bs).length by simp; omega] at this
    simp only [Memory.cellsFrom, Memory.write, List.cons_append]
    rw [if_neg (by simp), if_neg (by simp), this]

/-- The append of `F.APPEND` puts the chunk after the bytes held. -/
theorem Memory.writeRun_ofBytes (chunk bs : Bytes) :
    Memory.writeRun (Memory.ofBytes bs) bs.length chunk = Memory.ofBytes (bs ++ chunk) := by
  induction chunk generalizing bs with
  | nil => simp [Memory.writeRun]
  | cons b chunk ih =>
    have h := Memory.write_cellsFrom_end bs 0 b
    rw [Nat.zero_add] at h
    rw [Memory.writeRun, Memory.ofBytes, h]
    have := ih (bs ++ [b])
    rw [List.length_append, List.length_singleton, List.append_assoc, List.singleton_append] at this
    exact this

theorem Memory.moveDown_cellsFrom (bs : Bytes) (x off : Nat) :
    Memory.moveDown (Memory.cellsFrom x bs) off (x + bs.length)
      = Memory.cellsFrom (x - off) (bs.drop (off - x)) := by
  induction bs generalizing x with
  | nil => simp [Memory.cellsFrom, Memory.moveDown]
  | cons b bs ih =>
    have hl : x + (b :: bs).length = x + 1 + bs.length := by simp only [List.length_cons]; omega
    have := ih (x + 1)
    rw [hl]
    unfold Memory.moveDown at this ⊢
    rw [Memory.cellsFrom]
    by_cases h : off ≤ x
    · rw [List.filter_cons_of_pos (by simp [h]; omega), List.map_cons, this,
        show off - x = 0 by omega, show off - (x + 1) = 0 by omega, List.drop_zero, List.drop_zero,
        Memory.cellsFrom, show x + 1 - off = x - off + 1 by omega]
    · rw [List.filter_cons_of_neg (by simp [h]), this, show off - x = (off - (x + 1)) + 1 by omega,
        List.drop_succ_cons, show x + 1 - off = x - off by omega]

/-- The move of `F.COMPACT` keeps the bytes from `off` on. -/
theorem Memory.moveDown_ofBytes (bs : Bytes) (off : Nat) :
    Memory.moveDown (Memory.ofBytes bs) off bs.length = Memory.ofBytes (bs.drop off) := by
  have := Memory.moveDown_cellsFrom bs 0 off
  simpa [Memory.ofBytes] using this

/-- Two buffers that hold the same bytes at the same indices are equal data. -/
theorem Memory.ofBytes_injective {bs cs : Bytes} (h : Memory.ofBytes bs = Memory.ofBytes cs) : bs = cs := by
  have := congrArg Memory.bytes h
  simpa using this

end Sys2Proof.Machine
end

