-- ==== Sys2Proof/Laws/State.lean ====
section
/-! SUPPORT. One lemma per field per update of the state, true by rfl, so that no proof unfolds a record
update. -/

namespace Sys2Proof.Machine

/-! ### `F.APPEND`'s store -/

@[simp] theorem State.append_buf (s : State) (c : Bytes) : (s.append c).buf = Memory.writeRun s.buf s.bufLen c := rfl
@[simp] theorem State.append_bufLen (s : State) (c : Bytes) : (s.append c).bufLen = s.bufLen + c.length := rfl
@[simp] theorem State.append_off (s : State) (c : Bytes) : (s.append c).off = s.off := rfl
@[simp] theorem State.append_fl (s : State) (c : Bytes) : (s.append c).fl = s.fl := rfl
@[simp] theorem State.append_crc (s : State) (c : Bytes) : (s.append c).crc = s.crc := rfl
@[simp] theorem State.append_rsp (s : State) (c : Bytes) : (s.append c).rsp = s.rsp := rfl
@[simp] theorem State.append_rspLen (s : State) (c : Bytes) : (s.append c).rspLen = s.rspLen := rfl
@[simp] theorem State.append_pid (s : State) (c : Bytes) : (s.append c).pid = s.pid := rfl
@[simp] theorem State.append_ser0 (s : State) (c : Bytes) : (s.append c).ser0 = s.ser0 := rfl
@[simp] theorem State.append_ser1 (s : State) (c : Bytes) : (s.append c).ser1 = s.ser1 := rfl
@[simp] theorem State.append_serValid (s : State) (c : Bytes) : (s.append c).serValid = s.serValid := rfl
@[simp] theorem State.append_ctl (s : State) (c : Bytes) : (s.append c).ctl = s.ctl := rfl
@[simp] theorem State.append_trace (s : State) (c : Bytes) : (s.append c).trace = s.trace := rfl
@[simp] theorem State.append_result (s : State) (c : Bytes) : (s.append c).result = s.result := rfl
@[simp] theorem State.append_pending (s : State) (c : Bytes) : (s.append c).pending = s.pending := rfl
@[simp] theorem State.append_nowPort (s : State) (c : Bytes) : (s.append c).nowPort = s.nowPort := rfl
@[simp] theorem State.append_draws (s : State) (c : Bytes) : (s.append c).draws = s.draws := rfl

/-! ### `F.COMPACT`'s move -/

@[simp] theorem State.compact_buf (s : State) : (s.compact).buf = Memory.moveDown s.buf s.off s.bufLen := rfl
@[simp] theorem State.compact_bufLen (s : State) : (s.compact).bufLen = s.bufLen - s.off := rfl
@[simp] theorem State.compact_off (s : State) : (s.compact).off = 0 := rfl
@[simp] theorem State.compact_fl (s : State) : (s.compact).fl = s.fl := rfl
@[simp] theorem State.compact_crc (s : State) : (s.compact).crc = s.crc := rfl
@[simp] theorem State.compact_rsp (s : State) : (s.compact).rsp = s.rsp := rfl
@[simp] theorem State.compact_rspLen (s : State) : (s.compact).rspLen = s.rspLen := rfl
@[simp] theorem State.compact_pid (s : State) : (s.compact).pid = s.pid := rfl
@[simp] theorem State.compact_ser0 (s : State) : (s.compact).ser0 = s.ser0 := rfl
@[simp] theorem State.compact_ser1 (s : State) : (s.compact).ser1 = s.ser1 := rfl
@[simp] theorem State.compact_serValid (s : State) : (s.compact).serValid = s.serValid := rfl
@[simp] theorem State.compact_ctl (s : State) : (s.compact).ctl = s.ctl := rfl
@[simp] theorem State.compact_trace (s : State) : (s.compact).trace = s.trace := rfl
@[simp] theorem State.compact_result (s : State) : (s.compact).result = s.result := rfl
@[simp] theorem State.compact_pending (s : State) : (s.compact).pending = s.pending := rfl
@[simp] theorem State.compact_nowPort (s : State) : (s.compact).nowPort = s.nowPort := rfl
@[simp] theorem State.compact_draws (s : State) : (s.compact).draws = s.draws := rfl

/-! ### The control position -/

@[simp] theorem State.goto_buf (s : State) (c : Ctl) : (s.goto c).buf = s.buf := rfl
@[simp] theorem State.goto_bufLen (s : State) (c : Ctl) : (s.goto c).bufLen = s.bufLen := rfl
@[simp] theorem State.goto_off (s : State) (c : Ctl) : (s.goto c).off = s.off := rfl
@[simp] theorem State.goto_fl (s : State) (c : Ctl) : (s.goto c).fl = s.fl := rfl
@[simp] theorem State.goto_crc (s : State) (c : Ctl) : (s.goto c).crc = s.crc := rfl
@[simp] theorem State.goto_rsp (s : State) (c : Ctl) : (s.goto c).rsp = s.rsp := rfl
@[simp] theorem State.goto_rspLen (s : State) (c : Ctl) : (s.goto c).rspLen = s.rspLen := rfl
@[simp] theorem State.goto_pid (s : State) (c : Ctl) : (s.goto c).pid = s.pid := rfl
@[simp] theorem State.goto_ser0 (s : State) (c : Ctl) : (s.goto c).ser0 = s.ser0 := rfl
@[simp] theorem State.goto_ser1 (s : State) (c : Ctl) : (s.goto c).ser1 = s.ser1 := rfl
@[simp] theorem State.goto_serValid (s : State) (c : Ctl) : (s.goto c).serValid = s.serValid := rfl
@[simp] theorem State.goto_ctl (s : State) (c : Ctl) : (s.goto c).ctl = c := rfl
@[simp] theorem State.goto_trace (s : State) (c : Ctl) : (s.goto c).trace = s.trace := rfl
@[simp] theorem State.goto_result (s : State) (c : Ctl) : (s.goto c).result = s.result := rfl
@[simp] theorem State.goto_pending (s : State) (c : Ctl) : (s.goto c).pending = s.pending := rfl
@[simp] theorem State.goto_nowPort (s : State) (c : Ctl) : (s.goto c).nowPort = s.nowPort := rfl
@[simp] theorem State.goto_draws (s : State) (c : Ctl) : (s.goto c).draws = s.draws := rfl

/-! ### `emit FRM` -/

@[simp] theorem State.emitFrame_buf (s : State) (f : Bytes) : (s.emitFrame f).buf = s.buf := rfl
@[simp] theorem State.emitFrame_bufLen (s : State) (f : Bytes) : (s.emitFrame f).bufLen = s.bufLen := rfl
@[simp] theorem State.emitFrame_off (s : State) (f : Bytes) : (s.emitFrame f).off = s.off := rfl
@[simp] theorem State.emitFrame_fl (s : State) (f : Bytes) : (s.emitFrame f).fl = s.fl := rfl
@[simp] theorem State.emitFrame_crc (s : State) (f : Bytes) : (s.emitFrame f).crc = s.crc := rfl
@[simp] theorem State.emitFrame_rsp (s : State) (f : Bytes) : (s.emitFrame f).rsp = s.rsp := rfl
@[simp] theorem State.emitFrame_rspLen (s : State) (f : Bytes) : (s.emitFrame f).rspLen = s.rspLen := rfl
@[simp] theorem State.emitFrame_pid (s : State) (f : Bytes) : (s.emitFrame f).pid = s.pid := rfl
@[simp] theorem State.emitFrame_ser0 (s : State) (f : Bytes) : (s.emitFrame f).ser0 = s.ser0 := rfl
@[simp] theorem State.emitFrame_ser1 (s : State) (f : Bytes) : (s.emitFrame f).ser1 = s.ser1 := rfl
@[simp] theorem State.emitFrame_serValid (s : State) (f : Bytes) : (s.emitFrame f).serValid = s.serValid := rfl
@[simp] theorem State.emitFrame_ctl (s : State) (f : Bytes) : (s.emitFrame f).ctl = s.ctl := rfl
@[simp] theorem State.emitFrame_trace (s : State) (f : Bytes) : (s.emitFrame f).trace = s.trace ++ [.frm f] := rfl
@[simp] theorem State.emitFrame_result (s : State) (f : Bytes) : (s.emitFrame f).result = s.result := rfl
@[simp] theorem State.emitFrame_pending (s : State) (f : Bytes) : (s.emitFrame f).pending = s.pending := rfl
@[simp] theorem State.emitFrame_nowPort (s : State) (f : Bytes) : (s.emitFrame f).nowPort = s.nowPort := rfl
@[simp] theorem State.emitFrame_draws (s : State) (f : Bytes) : (s.emitFrame f).draws = s.draws := rfl

/-! ### `F.LEN` and `F.EMIT` of a frame -/

@[simp] theorem State.afterEmit_buf (s : State) (len pid : Byte) (tail : Bytes) : (s.afterEmit len pid tail).buf = s.buf := rfl
@[simp] theorem State.afterEmit_bufLen (s : State) (len pid : Byte) (tail : Bytes) : (s.afterEmit len pid tail).bufLen = s.bufLen := rfl
@[simp] theorem State.afterEmit_off (s : State) (len pid : Byte) (tail : Bytes) : (s.afterEmit len pid tail).off = s.off + frameLength len := rfl
@[simp] theorem State.afterEmit_fl (s : State) (len pid : Byte) (tail : Bytes) : (s.afterEmit len pid tail).fl = frameLength9 len := rfl
@[simp] theorem State.afterEmit_crc (s : State) (len pid : Byte) (tail : Bytes) : (s.afterEmit len pid tail).crc = s.crc := rfl
@[simp] theorem State.afterEmit_rsp (s : State) (len pid : Byte) (tail : Bytes) : (s.afterEmit len pid tail).rsp = s.rsp := rfl
@[simp] theorem State.afterEmit_rspLen (s : State) (len pid : Byte) (tail : Bytes) : (s.afterEmit len pid tail).rspLen = s.rspLen := rfl
@[simp] theorem State.afterEmit_pid (s : State) (len pid : Byte) (tail : Bytes) : (s.afterEmit len pid tail).pid = s.pid := rfl
@[simp] theorem State.afterEmit_ser0 (s : State) (len pid : Byte) (tail : Bytes) : (s.afterEmit len pid tail).ser0 = s.ser0 := rfl
@[simp] theorem State.afterEmit_ser1 (s : State) (len pid : Byte) (tail : Bytes) : (s.afterEmit len pid tail).ser1 = s.ser1 := rfl
@[simp] theorem State.afterEmit_serValid (s : State) (len pid : Byte) (tail : Bytes) : (s.afterEmit len pid tail).serValid = s.serValid := rfl
@[simp] theorem State.afterEmit_ctl (s : State) (len pid : Byte) (tail : Bytes) : (s.afterEmit len pid tail).ctl = .scan := rfl
@[simp] theorem State.afterEmit_trace (s : State) (len pid : Byte) (tail : Bytes) : (s.afterEmit len pid tail).trace = s.trace ++ [.frm (frameBytes len pid tail)] := rfl
@[simp] theorem State.afterEmit_result (s : State) (len pid : Byte) (tail : Bytes) : (s.afterEmit len pid tail).result = s.result := rfl
@[simp] theorem State.afterEmit_pending (s : State) (len pid : Byte) (tail : Bytes) : (s.afterEmit len pid tail).pending = s.pending := rfl
@[simp] theorem State.afterEmit_nowPort (s : State) (len pid : Byte) (tail : Bytes) : (s.afterEmit len pid tail).nowPort = s.nowPort := rfl
@[simp] theorem State.afterEmit_draws (s : State) (len pid : Byte) (tail : Bytes) : (s.afterEmit len pid tail).draws = s.draws := rfl

/-! ### `emit RSP` -/

@[simp] theorem State.emitResponse_buf (s : State) (r : Bytes) : (s.emitResponse r).buf = s.buf := rfl
@[simp] theorem State.emitResponse_bufLen (s : State) (r : Bytes) : (s.emitResponse r).bufLen = s.bufLen := rfl
@[simp] theorem State.emitResponse_off (s : State) (r : Bytes) : (s.emitResponse r).off = s.off := rfl
@[simp] theorem State.emitResponse_fl (s : State) (r : Bytes) : (s.emitResponse r).fl = s.fl := rfl
@[simp] theorem State.emitResponse_crc (s : State) (r : Bytes) : (s.emitResponse r).crc = s.crc := rfl
@[simp] theorem State.emitResponse_rsp (s : State) (r : Bytes) : (s.emitResponse r).rsp = s.rsp := rfl
@[simp] theorem State.emitResponse_rspLen (s : State) (r : Bytes) : (s.emitResponse r).rspLen = s.rspLen := rfl
@[simp] theorem State.emitResponse_pid (s : State) (r : Bytes) : (s.emitResponse r).pid = s.pid := rfl
@[simp] theorem State.emitResponse_ser0 (s : State) (r : Bytes) : (s.emitResponse r).ser0 = s.ser0 := rfl
@[simp] theorem State.emitResponse_ser1 (s : State) (r : Bytes) : (s.emitResponse r).ser1 = s.ser1 := rfl
@[simp] theorem State.emitResponse_serValid (s : State) (r : Bytes) : (s.emitResponse r).serValid = s.serValid := rfl
@[simp] theorem State.emitResponse_ctl (s : State) (r : Bytes) : (s.emitResponse r).ctl = s.ctl := rfl
@[simp] theorem State.emitResponse_trace (s : State) (r : Bytes) : (s.emitResponse r).trace = s.trace ++ [.rsp r] := rfl
@[simp] theorem State.emitResponse_result (s : State) (r : Bytes) : (s.emitResponse r).result = s.result := rfl
@[simp] theorem State.emitResponse_pending (s : State) (r : Bytes) : (s.emitResponse r).pending = s.pending := rfl
@[simp] theorem State.emitResponse_nowPort (s : State) (r : Bytes) : (s.emitResponse r).nowPort = s.nowPort := rfl
@[simp] theorem State.emitResponse_draws (s : State) (r : Bytes) : (s.emitResponse r).draws = s.draws := rfl

/-! ### A returned value -/

@[simp] theorem State.handBack_buf (s : State) (r : Result) : (s.handBack r).buf = s.buf := rfl
@[simp] theorem State.handBack_bufLen (s : State) (r : Result) : (s.handBack r).bufLen = s.bufLen := rfl
@[simp] theorem State.handBack_off (s : State) (r : Result) : (s.handBack r).off = s.off := rfl
@[simp] theorem State.handBack_fl (s : State) (r : Result) : (s.handBack r).fl = s.fl := rfl
@[simp] theorem State.handBack_crc (s : State) (r : Result) : (s.handBack r).crc = s.crc := rfl
@[simp] theorem State.handBack_rsp (s : State) (r : Result) : (s.handBack r).rsp = s.rsp := rfl
@[simp] theorem State.handBack_rspLen (s : State) (r : Result) : (s.handBack r).rspLen = s.rspLen := rfl
@[simp] theorem State.handBack_pid (s : State) (r : Result) : (s.handBack r).pid = s.pid := rfl
@[simp] theorem State.handBack_ser0 (s : State) (r : Result) : (s.handBack r).ser0 = s.ser0 := rfl
@[simp] theorem State.handBack_ser1 (s : State) (r : Result) : (s.handBack r).ser1 = s.ser1 := rfl
@[simp] theorem State.handBack_serValid (s : State) (r : Result) : (s.handBack r).serValid = s.serValid := rfl
@[simp] theorem State.handBack_ctl (s : State) (r : Result) : (s.handBack r).ctl = s.ctl := rfl
@[simp] theorem State.handBack_trace (s : State) (r : Result) : (s.handBack r).trace = s.trace := rfl
@[simp] theorem State.handBack_result (s : State) (r : Result) : (s.handBack r).result = r := rfl
@[simp] theorem State.handBack_pending (s : State) (r : Result) : (s.handBack r).pending = s.pending := rfl
@[simp] theorem State.handBack_nowPort (s : State) (r : Result) : (s.handBack r).nowPort = s.nowPort := rfl
@[simp] theorem State.handBack_draws (s : State) (r : Result) : (s.handBack r).draws = s.draws := rfl

/-! ### A store into `RSP` -/

@[simp] theorem State.writeRsp_buf (s : State) (bs : Bytes) : (s.writeRsp bs).buf = s.buf := rfl
@[simp] theorem State.writeRsp_bufLen (s : State) (bs : Bytes) : (s.writeRsp bs).bufLen = s.bufLen := rfl
@[simp] theorem State.writeRsp_off (s : State) (bs : Bytes) : (s.writeRsp bs).off = s.off := rfl
@[simp] theorem State.writeRsp_fl (s : State) (bs : Bytes) : (s.writeRsp bs).fl = s.fl := rfl
@[simp] theorem State.writeRsp_crc (s : State) (bs : Bytes) : (s.writeRsp bs).crc = s.crc := rfl
@[simp] theorem State.writeRsp_rsp (s : State) (bs : Bytes) : (s.writeRsp bs).rsp = bs ++ s.rsp.drop bs.length := rfl
@[simp] theorem State.writeRsp_rspLen (s : State) (bs : Bytes) : (s.writeRsp bs).rspLen = s.rspLen := rfl
@[simp] theorem State.writeRsp_pid (s : State) (bs : Bytes) : (s.writeRsp bs).pid = s.pid := rfl
@[simp] theorem State.writeRsp_ser0 (s : State) (bs : Bytes) : (s.writeRsp bs).ser0 = s.ser0 := rfl
@[simp] theorem State.writeRsp_ser1 (s : State) (bs : Bytes) : (s.writeRsp bs).ser1 = s.ser1 := rfl
@[simp] theorem State.writeRsp_serValid (s : State) (bs : Bytes) : (s.writeRsp bs).serValid = s.serValid := rfl
@[simp] theorem State.writeRsp_ctl (s : State) (bs : Bytes) : (s.writeRsp bs).ctl = s.ctl := rfl
@[simp] theorem State.writeRsp_trace (s : State) (bs : Bytes) : (s.writeRsp bs).trace = s.trace := rfl
@[simp] theorem State.writeRsp_result (s : State) (bs : Bytes) : (s.writeRsp bs).result = s.result := rfl
@[simp] theorem State.writeRsp_pending (s : State) (bs : Bytes) : (s.writeRsp bs).pending = s.pending := rfl
@[simp] theorem State.writeRsp_nowPort (s : State) (bs : Bytes) : (s.writeRsp bs).nowPort = s.nowPort := rfl
@[simp] theorem State.writeRsp_draws (s : State) (bs : Bytes) : (s.writeRsp bs).draws = s.draws := rfl

/-! ### A run of the checksum register -/

@[simp] theorem State.runCrc_buf (s : State) (m : Bytes) : (s.runCrc m).buf = s.buf := rfl
@[simp] theorem State.runCrc_bufLen (s : State) (m : Bytes) : (s.runCrc m).bufLen = s.bufLen := rfl
@[simp] theorem State.runCrc_off (s : State) (m : Bytes) : (s.runCrc m).off = s.off := rfl
@[simp] theorem State.runCrc_fl (s : State) (m : Bytes) : (s.runCrc m).fl = s.fl := rfl
@[simp] theorem State.runCrc_crc (s : State) (m : Bytes) : (s.runCrc m).crc = crcRegister m := rfl
@[simp] theorem State.runCrc_rsp (s : State) (m : Bytes) : (s.runCrc m).rsp = s.rsp := rfl
@[simp] theorem State.runCrc_rspLen (s : State) (m : Bytes) : (s.runCrc m).rspLen = s.rspLen := rfl
@[simp] theorem State.runCrc_pid (s : State) (m : Bytes) : (s.runCrc m).pid = s.pid := rfl
@[simp] theorem State.runCrc_ser0 (s : State) (m : Bytes) : (s.runCrc m).ser0 = s.ser0 := rfl
@[simp] theorem State.runCrc_ser1 (s : State) (m : Bytes) : (s.runCrc m).ser1 = s.ser1 := rfl
@[simp] theorem State.runCrc_serValid (s : State) (m : Bytes) : (s.runCrc m).serValid = s.serValid := rfl
@[simp] theorem State.runCrc_ctl (s : State) (m : Bytes) : (s.runCrc m).ctl = s.ctl := rfl
@[simp] theorem State.runCrc_trace (s : State) (m : Bytes) : (s.runCrc m).trace = s.trace := rfl
@[simp] theorem State.runCrc_result (s : State) (m : Bytes) : (s.runCrc m).result = s.result := rfl
@[simp] theorem State.runCrc_pending (s : State) (m : Bytes) : (s.runCrc m).pending = s.pending := rfl
@[simp] theorem State.runCrc_nowPort (s : State) (m : Bytes) : (s.runCrc m).nowPort = s.nowPort := rfl
@[simp] theorem State.runCrc_draws (s : State) (m : Bytes) : (s.runCrc m).draws = s.draws := rfl

/-! ### A response assembled -/

@[simp] theorem State.assemble_buf (s : State) (m : Bytes) : (s.assemble m).buf = s.buf := rfl
@[simp] theorem State.assemble_bufLen (s : State) (m : Bytes) : (s.assemble m).bufLen = s.bufLen := rfl
@[simp] theorem State.assemble_off (s : State) (m : Bytes) : (s.assemble m).off = s.off := rfl
@[simp] theorem State.assemble_fl (s : State) (m : Bytes) : (s.assemble m).fl = s.fl := rfl
@[simp] theorem State.assemble_crc (s : State) (m : Bytes) : (s.assemble m).crc = crcRegister m := rfl
@[simp] theorem State.assemble_rsp (s : State) (m : Bytes) : (s.assemble m).rsp = sealResponse m ++ s.rsp.drop (sealResponse m).length := rfl
@[simp] theorem State.assemble_rspLen (s : State) (m : Bytes) : (s.assemble m).rspLen = (sealResponse m).length := rfl
@[simp] theorem State.assemble_pid (s : State) (m : Bytes) : (s.assemble m).pid = s.pid := rfl
@[simp] theorem State.assemble_ser0 (s : State) (m : Bytes) : (s.assemble m).ser0 = s.ser0 := rfl
@[simp] theorem State.assemble_ser1 (s : State) (m : Bytes) : (s.assemble m).ser1 = s.ser1 := rfl
@[simp] theorem State.assemble_serValid (s : State) (m : Bytes) : (s.assemble m).serValid = s.serValid := rfl
@[simp] theorem State.assemble_ctl (s : State) (m : Bytes) : (s.assemble m).ctl = s.ctl := rfl
@[simp] theorem State.assemble_trace (s : State) (m : Bytes) : (s.assemble m).trace = s.trace := rfl
@[simp] theorem State.assemble_result (s : State) (m : Bytes) : (s.assemble m).result = s.result := rfl
@[simp] theorem State.assemble_pending (s : State) (m : Bytes) : (s.assemble m).pending = s.pending := rfl
@[simp] theorem State.assemble_nowPort (s : State) (m : Bytes) : (s.assemble m).nowPort = s.nowPort := rfl
@[simp] theorem State.assemble_draws (s : State) (m : Bytes) : (s.assemble m).draws = s.draws := rfl

/-! ### `ACK` -/

@[simp] theorem State.buildAck_buf (s : State) (p a b : Byte) : (s.buildAck p a b).buf = s.buf := rfl
@[simp] theorem State.buildAck_bufLen (s : State) (p a b : Byte) : (s.buildAck p a b).bufLen = s.bufLen := rfl
@[simp] theorem State.buildAck_off (s : State) (p a b : Byte) : (s.buildAck p a b).off = s.off := rfl
@[simp] theorem State.buildAck_fl (s : State) (p a b : Byte) : (s.buildAck p a b).fl = s.fl := rfl
@[simp] theorem State.buildAck_crc (s : State) (p a b : Byte) : (s.buildAck p a b).crc = crcRegister (ackCovered p a b) := rfl
@[simp] theorem State.buildAck_rsp (s : State) (p a b : Byte) : (s.buildAck p a b).rsp = ackBytes p a b ++ s.rsp.drop (ackBytes p a b).length := rfl
@[simp] theorem State.buildAck_rspLen (s : State) (p a b : Byte) : (s.buildAck p a b).rspLen = (ackBytes p a b).length := rfl
@[simp] theorem State.buildAck_pid (s : State) (p a b : Byte) : (s.buildAck p a b).pid = s.pid := rfl
@[simp] theorem State.buildAck_ser0 (s : State) (p a b : Byte) : (s.buildAck p a b).ser0 = s.ser0 := rfl
@[simp] theorem State.buildAck_ser1 (s : State) (p a b : Byte) : (s.buildAck p a b).ser1 = s.ser1 := rfl
@[simp] theorem State.buildAck_serValid (s : State) (p a b : Byte) : (s.buildAck p a b).serValid = s.serValid := rfl
@[simp] theorem State.buildAck_ctl (s : State) (p a b : Byte) : (s.buildAck p a b).ctl = s.ctl := rfl
@[simp] theorem State.buildAck_trace (s : State) (p a b : Byte) : (s.buildAck p a b).trace = s.trace := rfl
@[simp] theorem State.buildAck_result (s : State) (p a b : Byte) : (s.buildAck p a b).result = s.result := rfl
@[simp] theorem State.buildAck_pending (s : State) (p a b : Byte) : (s.buildAck p a b).pending = s.pending := rfl
@[simp] theorem State.buildAck_nowPort (s : State) (p a b : Byte) : (s.buildAck p a b).nowPort = s.nowPort := rfl
@[simp] theorem State.buildAck_draws (s : State) (p a b : Byte) : (s.buildAck p a b).draws = s.draws := rfl

/-! ### No response -/

@[simp] theorem State.buildNothing_buf (s : State) : (s.buildNothing).buf = s.buf := rfl
@[simp] theorem State.buildNothing_bufLen (s : State) : (s.buildNothing).bufLen = s.bufLen := rfl
@[simp] theorem State.buildNothing_off (s : State) : (s.buildNothing).off = s.off := rfl
@[simp] theorem State.buildNothing_fl (s : State) : (s.buildNothing).fl = s.fl := rfl
@[simp] theorem State.buildNothing_crc (s : State) : (s.buildNothing).crc = s.crc := rfl
@[simp] theorem State.buildNothing_rsp (s : State) : (s.buildNothing).rsp = s.rsp := rfl
@[simp] theorem State.buildNothing_rspLen (s : State) : (s.buildNothing).rspLen = 0 := rfl
@[simp] theorem State.buildNothing_pid (s : State) : (s.buildNothing).pid = s.pid := rfl
@[simp] theorem State.buildNothing_ser0 (s : State) : (s.buildNothing).ser0 = s.ser0 := rfl
@[simp] theorem State.buildNothing_ser1 (s : State) : (s.buildNothing).ser1 = s.ser1 := rfl
@[simp] theorem State.buildNothing_serValid (s : State) : (s.buildNothing).serValid = s.serValid := rfl
@[simp] theorem State.buildNothing_ctl (s : State) : (s.buildNothing).ctl = s.ctl := rfl
@[simp] theorem State.buildNothing_trace (s : State) : (s.buildNothing).trace = s.trace := rfl
@[simp] theorem State.buildNothing_result (s : State) : (s.buildNothing).result = s.result := rfl
@[simp] theorem State.buildNothing_pending (s : State) : (s.buildNothing).pending = s.pending := rfl
@[simp] theorem State.buildNothing_nowPort (s : State) : (s.buildNothing).nowPort = s.nowPort := rfl
@[simp] theorem State.buildNothing_draws (s : State) : (s.buildNothing).draws = s.draws := rfl

/-! ### The entry of `FEED` -/

@[simp] theorem State.enterFeed_buf (s : State) (c : Bytes) : (s.enterFeed c).buf = Memory.writeRun s.buf s.bufLen c := rfl
@[simp] theorem State.enterFeed_bufLen (s : State) (c : Bytes) : (s.enterFeed c).bufLen = s.bufLen + c.length := rfl
@[simp] theorem State.enterFeed_off (s : State) (c : Bytes) : (s.enterFeed c).off = 0 := rfl
@[simp] theorem State.enterFeed_fl (s : State) (c : Bytes) : (s.enterFeed c).fl = s.fl := rfl
@[simp] theorem State.enterFeed_crc (s : State) (c : Bytes) : (s.enterFeed c).crc = s.crc := rfl
@[simp] theorem State.enterFeed_rsp (s : State) (c : Bytes) : (s.enterFeed c).rsp = s.rsp := rfl
@[simp] theorem State.enterFeed_rspLen (s : State) (c : Bytes) : (s.enterFeed c).rspLen = s.rspLen := rfl
@[simp] theorem State.enterFeed_pid (s : State) (c : Bytes) : (s.enterFeed c).pid = s.pid := rfl
@[simp] theorem State.enterFeed_ser0 (s : State) (c : Bytes) : (s.enterFeed c).ser0 = s.ser0 := rfl
@[simp] theorem State.enterFeed_ser1 (s : State) (c : Bytes) : (s.enterFeed c).ser1 = s.ser1 := rfl
@[simp] theorem State.enterFeed_serValid (s : State) (c : Bytes) : (s.enterFeed c).serValid = s.serValid := rfl
@[simp] theorem State.enterFeed_ctl (s : State) (c : Bytes) : (s.enterFeed c).ctl = .scan := rfl
@[simp] theorem State.enterFeed_trace (s : State) (c : Bytes) : (s.enterFeed c).trace = s.trace := rfl
@[simp] theorem State.enterFeed_result (s : State) (c : Bytes) : (s.enterFeed c).result = s.result := rfl
@[simp] theorem State.enterFeed_pending (s : State) (c : Bytes) : (s.enterFeed c).pending = s.pending := rfl
@[simp] theorem State.enterFeed_nowPort (s : State) (c : Bytes) : (s.enterFeed c).nowPort = s.nowPort := rfl
@[simp] theorem State.enterFeed_draws (s : State) (c : Bytes) : (s.enterFeed c).draws = s.draws := rfl

/-! ### Bytes placed for a fetch -/

@[simp] theorem State.placeStream_buf (s : State) (bs : Bytes) : (s.placeStream bs).buf = Memory.writeRun s.buf s.off bs := rfl
@[simp] theorem State.placeStream_bufLen (s : State) (bs : Bytes) : (s.placeStream bs).bufLen = max s.bufLen (s.off + bs.length) := rfl
@[simp] theorem State.placeStream_off (s : State) (bs : Bytes) : (s.placeStream bs).off = s.off := rfl
@[simp] theorem State.placeStream_fl (s : State) (bs : Bytes) : (s.placeStream bs).fl = s.fl := rfl
@[simp] theorem State.placeStream_crc (s : State) (bs : Bytes) : (s.placeStream bs).crc = s.crc := rfl
@[simp] theorem State.placeStream_rsp (s : State) (bs : Bytes) : (s.placeStream bs).rsp = s.rsp := rfl
@[simp] theorem State.placeStream_rspLen (s : State) (bs : Bytes) : (s.placeStream bs).rspLen = s.rspLen := rfl
@[simp] theorem State.placeStream_pid (s : State) (bs : Bytes) : (s.placeStream bs).pid = s.pid := rfl
@[simp] theorem State.placeStream_ser0 (s : State) (bs : Bytes) : (s.placeStream bs).ser0 = s.ser0 := rfl
@[simp] theorem State.placeStream_ser1 (s : State) (bs : Bytes) : (s.placeStream bs).ser1 = s.ser1 := rfl
@[simp] theorem State.placeStream_serValid (s : State) (bs : Bytes) : (s.placeStream bs).serValid = s.serValid := rfl
@[simp] theorem State.placeStream_ctl (s : State) (bs : Bytes) : (s.placeStream bs).ctl = .scan := rfl
@[simp] theorem State.placeStream_trace (s : State) (bs : Bytes) : (s.placeStream bs).trace = s.trace := rfl
@[simp] theorem State.placeStream_result (s : State) (bs : Bytes) : (s.placeStream bs).result = s.result := rfl
@[simp] theorem State.placeStream_pending (s : State) (bs : Bytes) : (s.placeStream bs).pending = s.pending := rfl
@[simp] theorem State.placeStream_nowPort (s : State) (bs : Bytes) : (s.placeStream bs).nowPort = s.nowPort := rfl
@[simp] theorem State.placeStream_draws (s : State) (bs : Bytes) : (s.placeStream bs).draws = s.draws := rfl

/-! ### An operation placed for a step -/

@[simp] theorem State.placeOperation_buf (s : State) (i : Option Instr) : (s.placeOperation i).buf = s.buf := rfl
@[simp] theorem State.placeOperation_bufLen (s : State) (i : Option Instr) : (s.placeOperation i).bufLen = s.bufLen := rfl
@[simp] theorem State.placeOperation_off (s : State) (i : Option Instr) : (s.placeOperation i).off = s.off := rfl
@[simp] theorem State.placeOperation_fl (s : State) (i : Option Instr) : (s.placeOperation i).fl = s.fl := rfl
@[simp] theorem State.placeOperation_crc (s : State) (i : Option Instr) : (s.placeOperation i).crc = s.crc := rfl
@[simp] theorem State.placeOperation_rsp (s : State) (i : Option Instr) : (s.placeOperation i).rsp = s.rsp := rfl
@[simp] theorem State.placeOperation_rspLen (s : State) (i : Option Instr) : (s.placeOperation i).rspLen = s.rspLen := rfl
@[simp] theorem State.placeOperation_pid (s : State) (i : Option Instr) : (s.placeOperation i).pid = s.pid := rfl
@[simp] theorem State.placeOperation_ser0 (s : State) (i : Option Instr) : (s.placeOperation i).ser0 = s.ser0 := rfl
@[simp] theorem State.placeOperation_ser1 (s : State) (i : Option Instr) : (s.placeOperation i).ser1 = s.ser1 := rfl
@[simp] theorem State.placeOperation_serValid (s : State) (i : Option Instr) : (s.placeOperation i).serValid = s.serValid := rfl
@[simp] theorem State.placeOperation_ctl (s : State) (i : Option Instr) : (s.placeOperation i).ctl = .rest := rfl
@[simp] theorem State.placeOperation_trace (s : State) (i : Option Instr) : (s.placeOperation i).trace = s.trace := rfl
@[simp] theorem State.placeOperation_result (s : State) (i : Option Instr) : (s.placeOperation i).result = s.result := rfl
@[simp] theorem State.placeOperation_pending (s : State) (i : Option Instr) : (s.placeOperation i).pending = i.toList ++ s.pending := rfl
@[simp] theorem State.placeOperation_nowPort (s : State) (i : Option Instr) : (s.placeOperation i).nowPort = s.nowPort := rfl
@[simp] theorem State.placeOperation_draws (s : State) (i : Option Instr) : (s.placeOperation i).draws = s.draws := rfl

/-! ### The input `NOW`, a draw, and the extracted fields: what they leave alone -/

@[simp] theorem State.nowTaken_buf (s : State) :
    (s.nowTaken).buf = s.buf := by unfold State.nowTaken; split <;> rfl
@[simp] theorem State.nowTaken_bufLen (s : State) :
    (s.nowTaken).bufLen = s.bufLen := by unfold State.nowTaken; split <;> rfl
@[simp] theorem State.nowTaken_off (s : State) :
    (s.nowTaken).off = s.off := by unfold State.nowTaken; split <;> rfl
@[simp] theorem State.nowTaken_fl (s : State) :
    (s.nowTaken).fl = s.fl := by unfold State.nowTaken; split <;> rfl
@[simp] theorem State.nowTaken_crc (s : State) :
    (s.nowTaken).crc = s.crc := by unfold State.nowTaken; split <;> rfl
@[simp] theorem State.nowTaken_rsp (s : State) :
    (s.nowTaken).rsp = s.rsp := by unfold State.nowTaken; split <;> rfl
@[simp] theorem State.nowTaken_rspLen (s : State) :
    (s.nowTaken).rspLen = s.rspLen := by unfold State.nowTaken; split <;> rfl
@[simp] theorem State.nowTaken_pid (s : State) :
    (s.nowTaken).pid = s.pid := by unfold State.nowTaken; split <;> rfl
@[simp] theorem State.nowTaken_ser0 (s : State) :
    (s.nowTaken).ser0 = s.ser0 := by unfold State.nowTaken; split <;> rfl
@[simp] theorem State.nowTaken_ser1 (s : State) :
    (s.nowTaken).ser1 = s.ser1 := by unfold State.nowTaken; split <;> rfl
@[simp] theorem State.nowTaken_serValid (s : State) :
    (s.nowTaken).serValid = s.serValid := by unfold State.nowTaken; split <;> rfl
@[simp] theorem State.nowTaken_ctl (s : State) :
    (s.nowTaken).ctl = s.ctl := by unfold State.nowTaken; split <;> rfl
@[simp] theorem State.nowTaken_trace (s : State) :
    (s.nowTaken).trace = s.trace := by unfold State.nowTaken; split <;> rfl
@[simp] theorem State.nowTaken_result (s : State) :
    (s.nowTaken).result = s.result := by unfold State.nowTaken; split <;> rfl
@[simp] theorem State.nowTaken_pending (s : State) :
    (s.nowTaken).pending = s.pending := by unfold State.nowTaken; split <;> rfl

@[simp] theorem State.drawTime_buf (s : State) (t : Now) :
    (s.drawTime t).buf = s.buf := by unfold State.drawTime; split <;> rfl
@[simp] theorem State.drawTime_bufLen (s : State) (t : Now) :
    (s.drawTime t).bufLen = s.bufLen := by unfold State.drawTime; split <;> rfl
@[simp] theorem State.drawTime_off (s : State) (t : Now) :
    (s.drawTime t).off = s.off := by unfold State.drawTime; split <;> rfl
@[simp] theorem State.drawTime_fl (s : State) (t : Now) :
    (s.drawTime t).fl = s.fl := by unfold State.drawTime; split <;> rfl
@[simp] theorem State.drawTime_crc (s : State) (t : Now) :
    (s.drawTime t).crc = s.crc := by unfold State.drawTime; split <;> rfl
@[simp] theorem State.drawTime_rsp (s : State) (t : Now) :
    (s.drawTime t).rsp = s.rsp := by unfold State.drawTime; split <;> rfl
@[simp] theorem State.drawTime_rspLen (s : State) (t : Now) :
    (s.drawTime t).rspLen = s.rspLen := by unfold State.drawTime; split <;> rfl
@[simp] theorem State.drawTime_pid (s : State) (t : Now) :
    (s.drawTime t).pid = s.pid := by unfold State.drawTime; split <;> rfl
@[simp] theorem State.drawTime_ser0 (s : State) (t : Now) :
    (s.drawTime t).ser0 = s.ser0 := by unfold State.drawTime; split <;> rfl
@[simp] theorem State.drawTime_ser1 (s : State) (t : Now) :
    (s.drawTime t).ser1 = s.ser1 := by unfold State.drawTime; split <;> rfl
@[simp] theorem State.drawTime_serValid (s : State) (t : Now) :
    (s.drawTime t).serValid = s.serValid := by unfold State.drawTime; split <;> rfl
@[simp] theorem State.drawTime_ctl (s : State) (t : Now) :
    (s.drawTime t).ctl = s.ctl := by unfold State.drawTime; split <;> rfl
@[simp] theorem State.drawTime_trace (s : State) (t : Now) :
    (s.drawTime t).trace = s.trace := by unfold State.drawTime; split <;> rfl
@[simp] theorem State.drawTime_result (s : State) (t : Now) :
    (s.drawTime t).result = s.result := by unfold State.drawTime; split <;> rfl
@[simp] theorem State.drawTime_pending (s : State) (t : Now) :
    (s.drawTime t).pending = s.pending := by unfold State.drawTime; split <;> rfl
@[simp] theorem State.drawTime_nowPort (s : State) (t : Now) :
    (s.drawTime t).nowPort = s.nowPort := by unfold State.drawTime; split <;> rfl

@[simp] theorem State.setFields_buf (s : State) (p : Byte) (f : Bytes) :
    (s.setFields p f).buf = s.buf := by unfold State.setFields; split <;> rfl
@[simp] theorem State.setFields_bufLen (s : State) (p : Byte) (f : Bytes) :
    (s.setFields p f).bufLen = s.bufLen := by unfold State.setFields; split <;> rfl
@[simp] theorem State.setFields_off (s : State) (p : Byte) (f : Bytes) :
    (s.setFields p f).off = s.off := by unfold State.setFields; split <;> rfl
@[simp] theorem State.setFields_fl (s : State) (p : Byte) (f : Bytes) :
    (s.setFields p f).fl = s.fl := by unfold State.setFields; split <;> rfl
@[simp] theorem State.setFields_crc (s : State) (p : Byte) (f : Bytes) :
    (s.setFields p f).crc = s.crc := by unfold State.setFields; split <;> rfl
@[simp] theorem State.setFields_rsp (s : State) (p : Byte) (f : Bytes) :
    (s.setFields p f).rsp = s.rsp := by unfold State.setFields; split <;> rfl
@[simp] theorem State.setFields_rspLen (s : State) (p : Byte) (f : Bytes) :
    (s.setFields p f).rspLen = s.rspLen := by unfold State.setFields; split <;> rfl
@[simp] theorem State.setFields_ctl (s : State) (p : Byte) (f : Bytes) :
    (s.setFields p f).ctl = s.ctl := by unfold State.setFields; split <;> rfl
@[simp] theorem State.setFields_trace (s : State) (p : Byte) (f : Bytes) :
    (s.setFields p f).trace = s.trace := by unfold State.setFields; split <;> rfl
@[simp] theorem State.setFields_result (s : State) (p : Byte) (f : Bytes) :
    (s.setFields p f).result = s.result := by unfold State.setFields; split <;> rfl
@[simp] theorem State.setFields_pending (s : State) (p : Byte) (f : Bytes) :
    (s.setFields p f).pending = s.pending := by unfold State.setFields; split <;> rfl
@[simp] theorem State.setFields_nowPort (s : State) (p : Byte) (f : Bytes) :
    (s.setFields p f).nowPort = s.nowPort := by unfold State.setFields; split <;> rfl
@[simp] theorem State.setFields_draws (s : State) (p : Byte) (f : Bytes) :
    (s.setFields p f).draws = s.draws := by unfold State.setFields; split <;> rfl

@[simp] theorem State.setFields_pid (s : State) (p : Byte) (f : Bytes) : (s.setFields p f).pid = p := by
  unfold State.setFields; split <;> rfl

@[simp] theorem State.setFields_serValid (s : State) (p : Byte) (f : Bytes) :
    (s.setFields p f).serValid = (frameSerial f).isSome := by
  unfold State.setFields; split <;> simp [*]

/-- Fields set from a frame that has the serial `a b`. -/
theorem State.setFields_of_serial (s : State) (p : Byte) {f : Bytes} {a b : Byte} (h : frameSerial f = some (a, b)) :
    s.setFields p f = { s with pid := p, ser0 := a, ser1 := b, serValid := true } := by
  unfold State.setFields; rw [h]

/-- Fields set from a frame that has no serial. -/
theorem State.setFields_of_none (s : State) (p : Byte) {f : Bytes} (h : frameSerial f = none) :
    s.setFields p f = { s with pid := p, serValid := false } := by
  unfold State.setFields; rw [h]

/-- A draw made for a time in range draws nothing. -/
theorem State.drawTime_of_inRange (s : State) {t : Now} (h : t.inRange = true) : s.drawTime t = s := by
  unfold State.drawTime; rw [if_pos h]

/-- The time bytes of a time in range are its packed BCD. -/
theorem State.timeBytes_of_inRange (s : State) {t : Now} (h : t.inRange = true) : s.timeBytes t = t.bcdBytes := by
  unfold State.timeBytes; rw [if_pos h]

/-- There are six time bytes, whatever the time. -/
theorem State.timeBytes_length (s : State) (t : Now) : (s.timeBytes t).length = 6 := by
  unfold State.timeBytes; split <;> simp [Now.bcdBytes]

end Sys2Proof.Machine
end

