-- ==== Sys2Proof/Laws/Ops.lean ====
section
/-! SUPPORT. What each shared operation can do, said once, on a buffer in canonical form. -/

namespace Sys2Proof.Machine

/-! ### Sequential composition -/

@[simp] theorem andThen_next (s : State) (k : State → Outcome) : andThen (.next s) k = k s := rfl
@[simp] theorem andThen_fault (r : Fault) (k : State → Outcome) : andThen (.fault r) k = .fault r := rfl
@[simp] theorem andThen_refused (r : Refusal) (k : State → Outcome) : andThen (.refused r) k = .refused r := rfl

theorem andThen_assoc (o : Outcome) (k l : State → Outcome) :
    andThen (andThen o k) l = andThen o fun s => andThen (k s) l := by
  cases o <;> rfl

/-- A composition that answers a next state went through one. -/
theorem andThen_eq_next {o : Outcome} {k : State → Outcome} {t : State} (h : andThen o k = .next t) :
    ∃ s, o = .next s ∧ k s = .next t := by
  cases o with
  | next s => exact ⟨s, rfl, h⟩
  | fault r => cases h
  | refused r => cases h

/-! ### The buffer -/

/-- In canonical form a byte below `BUF_LEN` is read, and a byte at or above it does not exist. -/
theorem withByte_of_bufOk {s : State} (h : BufOk s) (a : Nat) (k : Byte → Outcome) :
    withByte s a k = match s.bytes[a]? with
      | some b => k b
      | none => .fault (.outsideBuffer a) := by
  have hr : Memory.read s.buf a = s.bytes[a]? := by rw [h.1, Memory.read_ofBytes]
  unfold withByte
  cases hb : s.bytes[a]? with
  | none => simp only [hr.trans hb]
  | some b => simp only [hr.trans hb]

theorem withByte_eq {s : State} {a : Nat} {b : Byte} (h : BufOk s) (hb : s.bytes[a]? = some b) (k : Byte → Outcome) :
    withByte s a k = k b := by
  rw [withByte_of_bufOk h, hb]

theorem withRun_eq {s : State} {a n : Nat} (h : BufOk s) (hn : a + n ≤ s.bufLen) (k : Bytes → Outcome) :
    withRun s a n k = k ((s.bytes.drop a).take n) := by
  unfold withRun
  rw [h.1, Memory.readRun_ofBytes _ _ _ (h.2 ▸ hn)]

theorem window_length {s : State} (h : BufOk s) : s.window.length = s.avail := by
  rw [State.window, List.length_drop, State.avail, h.2]

theorem window_getElem? (s : State) (i : Nat) : s.window[i]? = s.bytes[s.off + i]? := by
  rw [State.window, List.getElem?_drop]

/-- A fetch sees the bytes from `OFF` to the end of the buffer. -/
theorem withFetch_eq {s : State} (h : BufOk s) (ho : s.off ≤ s.bufLen) (k : Bytes → Outcome) :
    withFetch s k = k s.window := by
  unfold withFetch
  rw [withRun_eq h (by unfold State.avail; omega)]
  congr 1
  rw [State.window, List.take_of_length_le]
  rw [List.length_drop, State.avail, h.2]

theorem append_buf {s : State} (h : BufOk s) (c : Bytes) :
    (s.append c).buf = Memory.ofBytes (s.bytes ++ c) := by
  rw [State.append_buf, h.1, h.2, ← Memory.writeRun_ofBytes]

theorem append_bytes {s : State} (h : BufOk s) (c : Bytes) : (s.append c).bytes = s.bytes ++ c := by
  unfold State.bytes
  rw [append_buf h, Memory.bytes_ofBytes]
  rfl

theorem append_bufOk {s : State} (h : BufOk s) (c : Bytes) : BufOk (s.append c) := by
  refine ⟨?_, ?_⟩
  · rw [append_bytes h, append_buf h]
  · rw [append_bytes h, State.append_bufLen, List.length_append, h.2]

theorem compact_buf {s : State} (h : BufOk s) : s.compact.buf = Memory.ofBytes s.window := by
  rw [State.compact_buf, h.1, h.2, Memory.moveDown_ofBytes]
  rfl

theorem compact_bytes {s : State} (h : BufOk s) : s.compact.bytes = s.window := by
  unfold State.bytes
  rw [compact_buf h, Memory.bytes_ofBytes]

theorem compact_bufOk {s : State} (h : BufOk s) : BufOk s.compact := by
  refine ⟨?_, ?_⟩
  · rw [compact_bytes h, compact_buf h]
  · rw [compact_bytes h, window_length h]
    rfl

/-- Canonical form is a matter of `BUF` and `BUF_LEN` alone. -/
theorem bufOk_of_eq {s t : State} (h : BufOk s) (hb : t.buf = s.buf) (hl : t.bufLen = s.bufLen) : BufOk t := by
  unfold BufOk State.bytes at *
  rw [hb, hl]
  exact h

/-! ### Responses -/

theorem assemble_rsp_take (s : State) (m : Bytes) : (s.assemble m).response = sealResponse m := by
  simp [State.response]

/-- `ACK` leaves its ten bytes as the response. -/
@[simp] theorem buildAck_response (s : State) (p a b : Byte) : (s.buildAck p a b).response = ackBytes p a b :=
  assemble_rsp_take s _

/-- `TIMECAL_RSP` leaves its sixteen bytes as the response. -/
@[simp] theorem buildTimecal_response (s : State) (a b : Byte) (now : Now) :
    (s.buildTimecal a b now).response = timecalBytes (s.timeBytes now) a b :=
  assemble_rsp_take _ _

@[simp] theorem buildAck_built (s : State) (p a b : Byte) : (s.buildAck p a b).built = some (ackBytes p a b) := by
  unfold State.built
  rw [if_neg (by simp), buildAck_response]

@[simp] theorem buildTimecal_rspLen (s : State) (a b : Byte) (now : Now) : (s.buildTimecal a b now).rspLen = 16 :=
  timecalBytes_length a b (State.timeBytes_length s now)

@[simp] theorem buildTimecal_built (s : State) (a b : Byte) (now : Now) :
    (s.buildTimecal a b now).built = some (timecalBytes (s.timeBytes now) a b) := by
  unfold State.built
  rw [if_neg (by simp), buildTimecal_response]

@[simp] theorem buildNothing_built (s : State) : s.buildNothing.built = none := rfl

theorem timecalId_not_mem_ackSet : timecalId ∉ ackSet := by decide

/-- The three cases of `BUILD` (Pseudocode R135). -/
theorem buildState_cases (s : State) (p a b : Byte) (now : Now) :
    (p = timecalId ∧ s.buildState p a b now = s.buildTimecal a b now) ∨
    (p ≠ timecalId ∧ p ∈ ackSet ∧ s.buildState p a b now = s.buildAck p a b) ∨
    (p ≠ timecalId ∧ p ∉ ackSet ∧ s.buildState p a b now = s.buildNothing) := by
  unfold State.buildState
  by_cases h : p = timecalId
  · exact .inl ⟨h, if_pos h⟩
  · rw [if_neg h]
    by_cases h2 : p ∈ ackSet
    · exact .inr (.inl ⟨h, h2, if_pos h2⟩)
    · exact .inr (.inr ⟨h, h2, if_neg h2⟩)

/-- A store of at most 16 bytes into `RSP` keeps its size. -/
theorem writeRsp_length {s : State} {bs : Bytes} (h : s.rsp.length = 16) (hb : bs.length ≤ 16) :
    (s.writeRsp bs).rsp.length = 16 := by
  simp [h]
  omega

/-! ### `EXTRACT` and `PROCESS` -/

/-- `EXTRACT` of a frame always succeeds and takes byte 3. -/
theorem extractFields_frameBytes (len pid : Byte) (tail : Bytes) (s : State) :
    extractFields (frameBytes len pid tail) s = .next (s.setFields pid (frameBytes len pid tail)) := rfl

/-- `PROCESS` of a frame without a serial: the fields are set and nothing else happens. -/
theorem processFrame_of_none {len pid : Byte} {tail : Bytes} (s : State)
    (h : frameSerial (frameBytes len pid tail) = none) :
    processFrame (frameBytes len pid tail) s = .next (s.setFields pid (frameBytes len pid tail)) := by
  simp [processFrame, extractFields_frameBytes, h]

/-- `PROCESS` of a frame with a serial, in the three cases of `BUILD`. -/
theorem processFrame_of_serial {len pid a b : Byte} {tail : Bytes} (s : State)
    (h : frameSerial (frameBytes len pid tail) = some (a, b)) :
    let s1 : State := { s with pid := pid, ser0 := a, ser1 := b, serValid := true }
    processFrame (frameBytes len pid tail) s =
      if pid = timecalId then
        .next ((s1.nowTaken.buildTimecal a b s1.nowValue).emitResponse
          (timecalBytes (s1.nowTaken.timeBytes s1.nowValue) a b))
      else if pid ∈ ackSet then .next ((s1.buildAck pid a b).emitResponse (ackBytes pid a b))
      else .next s1.buildNothing := by
  intro s1
  have hs : s.setFields pid (frameBytes len pid tail) = s1 := State.setFields_of_serial s pid h
  simp only [processFrame, extractFields_frameBytes, hs, andThen_next]
  rw [if_pos rfl]
  by_cases ht : pid = timecalId
  · subst ht
    simp [s1, State.buildState, State.emitOptional]
  · by_cases ha : pid ∈ ackSet
    · simp [s1, State.buildState, State.emitOptional, ht, ha]
    · simp [s1, State.buildState, State.emitOptional, ht, ha]

end Sys2Proof.Machine
end

