-- ==== Sys2Proof/Laws/Pass.lean ====
section
/-! SUPPORT. What the tests and steps of the pass, `PROCESS` and the frame kinds can do, said once in terms
of the bytes from `OFF` on. -/

namespace Sys2Proof.Machine

/-! ### The tests -/


/-- The test of `F.SHORT` (40_framer.md R92). -/
theorem isShort_iff (s : State) : s.isShort = true ↔ s.avail < 6 := decide_eq_true_iff
/-- The test of `F.WAIT` (R96). -/
theorem isIncomplete_iff (s : State) : s.isIncomplete = true ↔ s.avail < s.fl.toNat := decide_eq_true_iff
/-- The test of `F.SKIP` (R94). -/
theorem isMismatch_iff (a b : Byte) : isMismatch a b = true ↔ ¬ (a = syncByte ∧ b = syncByte) := by
  simp [isMismatch]; tauto

/-- A frame kind executed is `F.EMIT` of its frame, then `PROCESS` (42_response.md R160). -/
theorem exec_frameInstr (s : State) (len pid : Byte) (tail : Bytes) :
    exec (frameInstr len pid tail) s = processFrame (frameBytes len pid tail) (s.afterEmit len pid tail) := by
  have key : s.takeFrame len pid tail = (s.afterEmit len pid tail).setFields pid (frameBytes len pid tail) := rfl
  have hp : ∀ p, processFrame (frameBytes len p tail) (s.afterEmit len p tail) =
     let s1 := s.takeFrame len p tail
    (if s1.serValid then
      let s2 := if s1.pid = timecalId then s1.nowTaken else s1
      let s3 := s2.buildState s1.pid s1.ser0 s1.ser1 s1.nowValue
      .next (s3.emitOptional s3.built)
    else .next s1) := fun p => rfl
  have hpid : ∀ p, (s.takeFrame len p tail).pid = p := fun p => by unfold State.takeFrame; simp
  have ack : ∀ p ∈ ackSet, processFrame (frameBytes len p tail) (s.afterEmit len p tail) = .next ((s.takeFrame len p tail).answerAck p) := by
    intro p hpa
    rw [hp]; simp only [State.answerAck]
    split
    · rw [hpid]
      have : p ≠ timecalId := fun h => timecalId_not_mem_ackSet (h ▸ hpa)
      rw [if_neg this, State.buildState, if_neg this, if_pos hpa]
      simp [State.emitOptional]
    · rfl
  have sil : ∀ p, p ∉ ackSet → p ≠ timecalId → processFrame (frameBytes len p tail) (s.afterEmit len p tail) = .next ((s.takeFrame len p tail).answerNothing) := by
    intro p hpa hpt
    rw [hp]; simp only [State.answerNothing]
    split
    · rw [hpid]
      rw [if_neg hpt, State.buildState, if_neg hpt, if_neg hpa]
      simp [State.emitOptional]
    · rfl
  refine frameInstr_cases (P := fun p i => exec i s = processFrame (frameBytes len p tail) (s.afterEmit len p tail)) len pid tail
    ?_ ?_ ?_ ?_ ?_ ?_ ?_ ?_ ?_ ?_ ?_ ?_ ?_ ?_ ?_ ?_ ?_
  any_goals exact (ack _ (by decide)).symm
  any_goals exact (sil _ (by decide) (by decide)).symm
  · rw [hp]; simp only [exec, execTimeCal, State.answerTimecal]
    have h8 : (s.takeFrame len 0x8A tail).pid = timecalId := hpid _
    by_cases hv : (s.takeFrame len 0x8A tail).serValid = true
    · rw [if_pos hv, if_pos hv, h8, if_pos rfl, State.buildState, if_pos rfl]; simp [State.emitOptional]
    · rw [if_neg hv, if_neg hv]
  · intro hn
    refine (sil _ ?_ ?_).symm
    · intro h; exact hn ((by decide : ∀ p ∈ ackSet, p ∈ namedPids) _ h)
    · rintro rfl; exact hn (by decide)

/-- Everything `PROCESS` of a frame can do: it answers a next state, appends the answer of the frame to the
trace, and leaves the buffer, `FL`, the control position and the platform's queue alone. -/
theorem processFrame_next (len pid : Byte) (tail : Bytes) (s : State) : ∃ t, processFrame (frameBytes len pid tail) s = .next t ∧
    t.buf = s.buf ∧ t.bufLen = s.bufLen ∧ t.off = s.off ∧ t.fl = s.fl ∧ t.ctl = s.ctl ∧ t.pending = s.pending ∧ t.result = s.result ∧
    (s.rsp.length = 16 → t.rsp.length = 16) ∧ (s.rspLen = 0 ∨ s.rspLen = 10 ∨ s.rspLen = 16 → t.rspLen = 0 ∨ t.rspLen = 10 ∨ t.rspLen = 16) ∧
    ∃ r, Answers (frameBytes len pid tail) r ∧ t.trace = s.trace ++ (r.map Event.rsp).toList := by
  cases h : frameSerial (frameBytes len pid tail) with
  | none =>
    refine ⟨_, processFrame_of_none s h, ?_⟩
    rw [State.setFields_of_none _ _ h]
    refine ⟨rfl, rfl, rfl, rfl, rfl, rfl, rfl, id, id, none, ?_, by simp⟩
    simp [Answers, h]
  | some ab =>
    obtain ⟨a, b⟩ := ab
    have hg : (frameBytes len pid tail).getD 3 0 = pid := rfl
    rw [processFrame_of_serial s h]
    by_cases hp : pid = timecalId
    · rw [if_pos hp]
      have aux : ∀ (x : State) (now : Now), x.rsp = s.rsp → x.buf = s.buf → x.bufLen = s.bufLen → x.off = s.off → x.fl = s.fl → x.ctl = s.ctl → x.pending = s.pending → x.result = s.result → x.trace = s.trace →
          ∃ t, (Host.Outcome.next ((x.buildTimecal a b now).emitResponse (timecalBytes (x.timeBytes now) a b)) : Outcome) = .next t ∧
            t.buf = s.buf ∧ t.bufLen = s.bufLen ∧ t.off = s.off ∧ t.fl = s.fl ∧ t.ctl = s.ctl ∧ t.pending = s.pending ∧ t.result = s.result ∧
            (s.rsp.length = 16 → t.rsp.length = 16) ∧ (s.rspLen = 0 ∨ s.rspLen = 10 ∨ s.rspLen = 16 → t.rspLen = 0 ∨ t.rspLen = 10 ∨ t.rspLen = 16) ∧
            ∃ r, Answers (frameBytes len pid tail) r ∧ t.trace = s.trace ++ (r.map Event.rsp).toList := by
        intro x now h1 h2 h3 h4 h5 h6 h7 h8 h9
        have hl := timecalBytes_length a b (State.timeBytes_length x now)
        refine ⟨_, rfl, ?_, ?_, ?_, ?_, ?_, ?_, ?_, ?_, ?_, some (timecalBytes (x.timeBytes now) a b), ?_, ?_⟩
        · simp [State.buildTimecal, h2]
        · simp [State.buildTimecal, h3]
        · simp [State.buildTimecal, h4]
        · simp [State.buildTimecal, h5]
        · simp [State.buildTimecal, h6]
        · simp [State.buildTimecal, h7]
        · simp [State.buildTimecal, h8]
        · intro hr
          refine writeRsp_length (bs := timecalBytes (x.timeBytes now) a b) ?_ (Nat.le_of_eq hl)
          simpa [h1] using hr
        · intro _; right; right; exact hl
        · simp only [Answers, h, hg, if_pos hp]
          exact ⟨_, State.timeBytes_length _ _, rfl⟩
        · simp [State.buildTimecal, h9]
      apply aux <;> simp
    · rw [if_neg hp]
      by_cases ha : pid ∈ ackSet
      · rw [if_pos ha]
        refine ⟨_, rfl, rfl, rfl, rfl, rfl, rfl, rfl, rfl, ?_, ?_, some (ackBytes pid a b), ?_, rfl⟩
        · intro hl; exact writeRsp_length (bs := ackBytes pid a b) hl (by simp)
        · intro _; right; left; rfl
        · simp only [Answers, h, hg, if_neg hp, if_pos ha]
      · rw [if_neg ha]
        refine ⟨_, rfl, rfl, rfl, rfl, rfl, rfl, rfl, rfl, id, fun _ => .inl rfl, none, ?_, by simp⟩
        simp only [Answers, h, hg, if_neg hp, if_neg ha]

/-- `F.SKIP` in terms of the bytes from `OFF` on. -/
theorem execFSkip_window {s : State} {a b : Byte} {more : Bytes} (hb : BufOk s) (hw : s.window = a :: b :: more) :
    exec .fSkip s = .next (if a = syncByte ∧ b = syncByte then s.goto .len else { s with off := s.off + 1 }.goto .scan) := by
  have h0 : s.bytes[s.off]? = some a := by have := window_getElem? s 0; rw [hw] at this; simpa using this.symm
  have h1 : s.bytes[s.off+1]? = some b := by have := window_getElem? s 1; rw [hw] at this; simpa using this.symm
  simp only [exec, execFSkip]
  rw [withByte_eq hb h0, withByte_eq hb h1]
  by_cases h : a = syncByte ∧ b = syncByte
  · rw [if_neg (fun k => (isMismatch_iff a b).1 k h), if_pos h]
  · rw [if_pos ((isMismatch_iff a b).2 h), if_neg h]

/-- `F.LEN` in terms of the bytes from `OFF` on. -/
theorem execFLen_window {s : State} {a b len : Byte} {more : Bytes} (hb : BufOk s) (hw : s.window = a :: b :: len :: more) :
    exec .fLen s = .next ({ s with fl := frameLength9 len }.goto .wait) := by
  have h0 : s.bytes[s.off+2]? = some len := by have := window_getElem? s 2; rw [hw] at this; simpa using this.symm
  simp only [exec, execFLen]
  rw [withByte_eq hb h0]

/-- `F.EMIT` in terms of the bytes from `OFF` on. -/
theorem execFEmit_window {s : State} {f rest : Bytes} (hb : BufOk s) (hw : s.window = f ++ rest) (hl : s.fl.toNat = f.length) (ho : s.off ≤ s.bufLen) :
    exec .fEmit s = .next ({ s.emitFrame f with off := s.off + f.length }.goto (.process f)) := by
  have hl2 : s.window.length = s.avail := window_length hb
  simp only [exec, execFEmit]
  rw [withRun_eq hb, ← State.window, hw, hl]
  · simp
  · rw [hw, List.length_append, State.avail] at hl2; omega

/-- Everything one iteration of the pass can do, by the four cases of R93. -/
theorem iteration_cases (s : State) (hb : BufOk s) (ho : s.off ≤ s.bufLen) :
    (s.window.length < 6 ∧ passIteration s = .next (s.goto .compact)) ∨
    (∃ a b more, s.window = a :: b :: more ∧ 6 ≤ s.window.length ∧ ¬ (a = syncByte ∧ b = syncByte) ∧
       passIteration s = .next ({s with off := s.off + 1}.goto .scan)) ∨
    (∃ len more, s.window = syncByte :: syncByte :: len :: more ∧ 6 ≤ s.window.length ∧ s.window.length < frameLength len ∧
       passIteration s = .next ({ s with fl := frameLength9 len }.goto .compact)) ∨
    (∃ len pid tail rest, s.window = frameBytes len pid tail ++ rest ∧ 6 ≤ s.window.length ∧ tail.length = len.toNat + 1 ∧
      passIteration s = processFrame (frameBytes len pid tail) (s.afterEmit len pid tail)) := by
  have hwl := window_length hb
  rcases decode_cases s.window with ⟨h, hd⟩ | ⟨a, b, more, hw, h, hm, hd⟩ | ⟨len, more, hw, h, hl, hd⟩ | ⟨len, pid, tail, rest, hw, h, ht, hd⟩
  · left; refine ⟨h, ?_⟩
    simp only [passIteration, execFShort]
    rw [if_pos ((isShort_iff s).2 (by omega)), andThen_next, if_pos (State.goto_ctl _ _)]
  · right; left; refine ⟨a, b, more, hw, h, hm, ?_⟩
    simp only [passIteration, execFShort]
    rw [if_neg (fun k => by have := (isShort_iff s).1 k; omega), andThen_next, if_neg (by simp)]
    have := execFSkip_window (s := s.goto .sync) (a := a) (b := b) (more := more) hb hw
    rw [if_neg hm] at this
    simp only [exec] at this
    rw [this, andThen_next, if_pos (State.goto_ctl _ _)]
    rfl
  · right; right; left; refine ⟨len, more, hw, h, hl, ?_⟩
    simp only [passIteration, execFShort]
    rw [if_neg (fun k => by have := (isShort_iff s).1 k; omega), andThen_next, if_neg (by simp)]
    have := execFSkip_window (s := s.goto .sync) (a := _) (b := _) (more := _) hb hw
    rw [if_pos ⟨rfl, rfl⟩] at this
    simp only [exec] at this
    rw [this, andThen_next, if_neg (by simp)]
    have := execFLen_window (s := (s.goto .sync).goto .len) (a := _) (b := _) (more := _) hb hw
    simp only [exec] at this
    rw [this, andThen_next]
    simp only [execFWait]
    rw [if_pos ((isIncomplete_iff _).2 (by change s.avail < (frameLength9 len).toNat; rw [frameLength9_toNat]; omega)), andThen_next, if_pos (State.goto_ctl _ _)]
    rfl
  · right; right; right; refine ⟨len, pid, tail, rest, hw, h, ht, ?_⟩
    simp only [passIteration, execFShort]
    rw [if_neg (fun k => by have := (isShort_iff s).1 k; omega), andThen_next, if_neg (by simp)]
    have := execFSkip_window (s := s.goto .sync) (a := _) (b := _) (more := _) hb hw
    rw [if_pos ⟨rfl, rfl⟩] at this
    simp only [exec] at this
    rw [this, andThen_next, if_neg (by simp)]
    have := execFLen_window (s := (s.goto .sync).goto .len) (a := _) (b := _) (more := _) hb hw
    simp only [exec] at this
    rw [this, andThen_next]
    simp only [execFWait]
    have hfl : (frameBytes len pid tail).length = frameLength len := by simp [frameBytes, ht, frameLength_eq]
    rw [if_neg (fun k => by
      have k := (isIncomplete_iff _).1 k
      change s.avail < (frameLength9 len).toNat at k
      rw [frameLength9_toNat] at k
      rw [hw, List.length_append, hfl] at hwl
      omega), andThen_next, if_neg (by simp)]
    have := execFEmit_window (s := (({ (s.goto .sync).goto .len with fl := frameLength9 len }.goto .wait).goto .emit)) (f := _) (rest := _) hb hw (by rw [hfl]; exact frameLength9_toNat len) ho
    simp only [exec] at this
    rw [this, andThen_next]
    simp only [State.goto, hfl]
    rfl

/-! ### Stalls and runs -/

/-- The two stalls (R92, R96). -/
theorem isStalled_iff (bs : Bytes) :
    isStalled bs = true ↔
      bs.length < 6 ∨
      ∃ len more, bs = syncByte :: syncByte :: len :: more ∧ 6 ≤ bs.length ∧ bs.length < frameLength len := by
  rcases decode_cases bs with ⟨h, hd⟩ | ⟨a, b, more, rfl, h, hm, hd⟩ | ⟨len, more, rfl, h, hl, hd⟩ | ⟨len, pid, tail, rest, rfl, h, ht, hd⟩
  · simp [isStalled, hd, h]
  · simp only [isStalled, hd, Bool.false_eq_true, false_iff]
    rintro (h' | ⟨l, m, he, _⟩)
    · omega
    · cases he; exact hm ⟨rfl, rfl⟩
  · simp only [isStalled, hd, true_iff]; right; exact ⟨_, _, rfl, h, hl⟩
  · simp only [isStalled, hd, Bool.false_eq_true, false_iff]
    rintro (h' | ⟨l, m, he, _, hl⟩)
    · omega
    · cases he; simp [frameBytes, ht, frameLength_eq] at hl; omega

/-- With a frame complete at `OFF` an iteration meets no condition (R210). -/
theorem passCondition_of_frame {len pid : Byte} {tail rest : Bytes} (ht : tail.length = len.toNat + 1)
    (h : 6 ≤ (frameBytes len pid tail ++ rest).length) :
    passCondition (frameBytes len pid tail ++ rest) = none := by
  rw [passCondition, decode_of_frame ht h]
  split
  · rename_i k; cases k
  · rename_i k
    injection k with k
    exact absurd k (frameInstr_ne_nonsync len pid tail _ _)
  · rfl

/-- The three cases of an iteration's condition (R202, R203, R210). -/
theorem passCondition_cases (bs : Bytes) :
    (passCondition bs = some .framingStall ∧ isStalled bs = true) ∨
    (passCondition bs = some .framingDesync ∧ 6 ≤ bs.length ∧ ¬ startsSync bs) ∨
    (passCondition bs = none ∧ ∃ f rest, bs = f ++ rest ∧ isFrame f = true) := by
  rcases decode_cases bs with ⟨_, hd⟩ | ⟨a, b, more, rfl, h, hm, hd⟩ | ⟨_, _, _, _, _, hd⟩ | ⟨len, pid, tail, rest, rfl, h, ht, _⟩
  · exact .inl ⟨by simp [passCondition, hd], by simp [isStalled, hd]⟩
  · exact .inr (.inl ⟨by simp [passCondition, hd], h, by simpa [startsSync] using hm⟩)
  · exact .inl ⟨by simp [passCondition, hd], by simp [isStalled, hd]⟩
  · exact .inr (.inr ⟨passCondition_of_frame ht h, _, rest, rfl, (isFrame_iff _).2 ⟨len, pid, tail, rfl, ht⟩⟩)

/-- The ids of Table R70: the one of the time calibration, the acknowledged ones, the silent ones. -/
theorem mem_namedPids_iff (p : Byte) : p ∈ namedPids ↔ p = timecalId ∨ p ∈ ackSet ∨ p ∈ silentKinds.map Prod.fst := by
  simp only [namedPids, timecalId, ackSet, silentKinds, List.map, List.mem_cons, List.not_mem_nil, or_false]
  tauto

/-- A run of one step and more, of any core. -/
theorem run_next {M : Host.Core} {n : Nat} {s t : M.State} (h : M.step s = .next t) :
    M.run (n + 1) s = M.run n t := by
  rw [Host.Core.run, h]

/-- A run of one step and more. -/
theorem core_run_next {n : Nat} {s t : State} (h : step s = .next t) :
    Sys2Proof.core.run (n + 1) s = Sys2Proof.core.run n t :=
  run_next (M := Sys2Proof.core) h

end Sys2Proof.Machine
end

