-- ==== Sys2Proof/Laws/PerInstr.lean ====
section
/-! SUPPORT. One lemma per constructor of `Instr`, by family. -/

namespace Sys2Proof.Laws

/-- What has an encoding begins with the sync, but for the byte pair `NONSYNC` (spec/30_encoding.md R60,
R68, R69, R72); an operation of 00_scope.md R10 has none. -/
def Encoding.Statement (i : Instr) : Prop :=
  ∀ bs, encode i = some bs → (∃ a b, i = .nonsync a b) ∨ ∃ more, bs = syncByte :: syncByte :: more

theorem Encoding.login (len : Byte) (tail : Bytes) : Encoding.Statement (.login len tail) :=
  fun _ h => .inr ⟨_, (Option.some.inj h).symm⟩

theorem Encoding.heartbeat (len : Byte) (tail : Bytes) : Encoding.Statement (.heartbeat len tail) :=
  fun _ h => .inr ⟨_, (Option.some.inj h).symm⟩

theorem Encoding.addrCn (len : Byte) (tail : Bytes) : Encoding.Statement (.addrCn len tail) :=
  fun _ h => .inr ⟨_, (Option.some.inj h).symm⟩

theorem Encoding.respOnline (len : Byte) (tail : Bytes) : Encoding.Statement (.respOnline len tail) :=
  fun _ h => .inr ⟨_, (Option.some.inj h).symm⟩

theorem Encoding.gps (len : Byte) (tail : Bytes) : Encoding.Statement (.gps len tail) :=
  fun _ h => .inr ⟨_, (Option.some.inj h).symm⟩

theorem Encoding.alarm (len : Byte) (tail : Bytes) : Encoding.Statement (.alarm len tail) :=
  fun _ h => .inr ⟨_, (Option.some.inj h).symm⟩

theorem Encoding.id27 (len : Byte) (tail : Bytes) : Encoding.Statement (.id27 len tail) :=
  fun _ h => .inr ⟨_, (Option.some.inj h).symm⟩

theorem Encoding.lbsMulti (len : Byte) (tail : Bytes) : Encoding.Statement (.lbsMulti len tail) :=
  fun _ h => .inr ⟨_, (Option.some.inj h).symm⟩

theorem Encoding.addrReq (len : Byte) (tail : Bytes) : Encoding.Statement (.addrReq len tail) :=
  fun _ h => .inr ⟨_, (Option.some.inj h).symm⟩

theorem Encoding.onlineCmd (len : Byte) (tail : Bytes) : Encoding.Statement (.onlineCmd len tail) :=
  fun _ h => .inr ⟨_, (Option.some.inj h).symm⟩

theorem Encoding.timeCal (len : Byte) (tail : Bytes) : Encoding.Statement (.timeCal len tail) :=
  fun _ h => .inr ⟨_, (Option.some.inj h).symm⟩

theorem Encoding.infoXfer (len : Byte) (tail : Bytes) : Encoding.Statement (.infoXfer len tail) :=
  fun _ h => .inr ⟨_, (Option.some.inj h).symm⟩

theorem Encoding.addrEn (len : Byte) (tail : Bytes) : Encoding.Statement (.addrEn len tail) :=
  fun _ h => .inr ⟨_, (Option.some.inj h).symm⟩

theorem Encoding.gpsA0 (len : Byte) (tail : Bytes) : Encoding.Statement (.gpsA0 len tail) :=
  fun _ h => .inr ⟨_, (Option.some.inj h).symm⟩

theorem Encoding.lbs4g (len : Byte) (tail : Bytes) : Encoding.Statement (.lbs4g len tail) :=
  fun _ h => .inr ⟨_, (Option.some.inj h).symm⟩

theorem Encoding.fenceAlarm (len : Byte) (tail : Bytes) : Encoding.Statement (.fenceAlarm len tail) :=
  fun _ h => .inr ⟨_, (Option.some.inj h).symm⟩

theorem Encoding.other (len pid : Byte) (tail : Bytes) : Encoding.Statement (.other len pid tail) :=
  fun _ h => .inr ⟨_, (Option.some.inj h).symm⟩

theorem Encoding.nonsync (a b : Byte) : Encoding.Statement (.nonsync a b) :=
  fun _ _ => .inl ⟨a, b, rfl⟩

theorem Encoding.ack (pid s0 s1 : Byte) : Encoding.Statement (.ack pid s0 s1) :=
  fun _ h => .inr ⟨_, (Option.some.inj h).symm⟩

theorem Encoding.timecalRsp (s0 s1 : Byte) (now : Now) : Encoding.Statement (.timecalRsp s0 s1 now) :=
  fun _ h => .inr ⟨_, (Option.some.inj h).symm⟩

theorem Encoding.reset : Encoding.Statement .reset :=
  nofun

theorem Encoding.feed (chunk : Bytes) : Encoding.Statement (.feed chunk) :=
  nofun

theorem Encoding.fAppend (chunk : Bytes) : Encoding.Statement (.fAppend chunk) :=
  nofun

theorem Encoding.fShort : Encoding.Statement .fShort :=
  nofun

theorem Encoding.fSkip : Encoding.Statement .fSkip :=
  nofun

theorem Encoding.fLen : Encoding.Statement .fLen :=
  nofun

theorem Encoding.fWait : Encoding.Statement .fWait :=
  nofun

theorem Encoding.fEmit : Encoding.Statement .fEmit :=
  nofun

theorem Encoding.fCompact : Encoding.Statement .fCompact :=
  nofun

theorem Encoding.extract (frame : Bytes) : Encoding.Statement (.extract frame) :=
  nofun

theorem Encoding.crc16 (m : Bytes) : Encoding.Statement (.crc16 m) :=
  nofun

theorem Encoding.crcInit : Encoding.Statement .crcInit :=
  nofun

theorem Encoding.crcByte (b : Byte) : Encoding.Statement (.crcByte b) :=
  nofun

theorem Encoding.crcFinal : Encoding.Statement .crcFinal :=
  nofun

theorem Encoding.build (pid s0 s1 : Byte) (now : Now) : Encoding.Statement (.build pid s0 s1 now) :=
  nofun

theorem Encoding.process (frame : Bytes) : Encoding.Statement (.process frame) :=
  nofun

end Sys2Proof.Laws
end

