-- ==== Sys2Proof/Tests/Slice0.lean ====
section
/-! SUPPORT. The model's own tests. Expected values are those of spec/95_test_vectors.md and of the examples
in the rules, by their ids; the witnesses meet the hypotheses of the statements of the same name. -/

namespace Sys2Proof.Tests

open Sys2Proof.Machine

/-- A block that holds the bytes `bs`, at a control position, everything else as after reset. -/
def holding (bs : Bytes) (c : Ctl) : State := { State.reset with buf := Memory.ofBytes bs, bufLen := bs.length, ctl := c }

theorem holding_bytes (bs : Bytes) (c : Ctl) : (holding bs c).bytes = bs := Memory.bytes_ofBytes bs

theorem holding_bufOk (bs : Bytes) (c : Ctl) : BufOk (holding bs c) :=
  ⟨congrArg Memory.ofBytes (holding_bytes bs c).symm, congrArg List.length (holding_bytes bs c).symm⟩

/-- A block with few bytes is at rest. -/
theorem holding_atRest (bs : Bytes) (h : bs.length < 6) : AtRest (holding bs .rest) := by
  refine ⟨⟨holding_bufOk bs _, Nat.zero_le _, rfl, .inl rfl, ⟨rfl, ?_, ?_⟩, nofun⟩, rfl⟩
  · rw [holding_bytes]
    exact (isStalled_iff bs).2 (.inl h)
  · exact fun h6 => absurd h (Nat.not_lt.2 h6)

/-- A block at the head of the loop meets the invariant, whatever bytes it holds. -/
theorem holding_scanInv (bs : Bytes) : StateInv (holding bs .scan) :=
  ⟨holding_bufOk bs _, Nat.zero_le _, rfl, .inl rfl, trivial, nofun⟩

/-- 2026-11-11 06:17:05, the time of the spec's examples. -/
def sampleTime : Now := ⟨26, 11, 11, 6, 17, 5⟩

/-- The events and the bytes left after an outcome. -/
def seen (o : Outcome) : Option (List Event × Bytes × Nat) :=
  match o with
  | .next t => some (t.trace, t.bytes, t.off)
  | _ => none

/-- The value an operation returned. -/
def returned (o : Outcome) : Option Result :=
  match o with
  | .next t => some t.result
  | _ => none

/-- The control position and `FL` after an outcome. -/
def position (o : Outcome) : Option (Ctl × Nat × Nat) :=
  match o with
  | .next t => some (t.ctl, t.off, t.fl.toNat)
  | _ => none

/-- `PID`, `SER` and `SER_VALID` after an outcome. -/
def fields (o : Outcome) : Option (Byte × Byte × Byte × Bool) :=
  match o with
  | .next t => some (t.pid, t.ser0, t.ser1, t.serValid)
  | _ => none

/-! ### Ill-formed instructions are refused by `wellFormed` -/

theorem test_wellFormed_tail_too_short : Instr.wellFormed (.login 0x05 [0x00, 0x01]) = false := by decide
theorem test_wellFormed_tail_too_long : Instr.wellFormed (.timeCal 0x00 [0x00, 0x01]) = false := by decide
theorem test_wellFormed_other_named_id : Instr.wellFormed (.other 0x00 0x13 [0xBB]) = false := by decide
theorem test_wellFormed_other_tail : Instr.wellFormed (.other 0x00 0x99 []) = false := by decide
theorem test_wellFormed_nonsync_is_sync : Instr.wellFormed (.nonsync 0x78 0x78) = false := by decide
theorem test_wellFormed_ack_not_in_set : Instr.wellFormed (.ack 0x8A 0x00 0x01) = false := by decide
theorem test_wellFormed_timecal_range : Instr.wellFormed (.timecalRsp 0x00 0x01 ⟨100, 1, 1, 0, 0, 0⟩) = false := by decide
theorem test_wellFormed_build_range : Instr.wellFormed (.build 0x8A 0x00 0x01 ⟨26, 1, 1, 0, 0, 100⟩) = false := by decide
theorem test_wellFormed_extract_no_sync : Instr.wellFormed (.extract [0x79, 0x78, 0x00, 0x01, 0xBB]) = false := by decide
theorem test_wellFormed_process_length : Instr.wellFormed (.process [0x78, 0x78, 0x01, 0x01, 0xBB]) = false := by decide

/-! ### Decoding: words written out from the encodings (30_encoding.md R60, R67 to R70, R72) -/

theorem test_decode_login : decode [0x78, 0x78, 0x02, 0x01, 0x10, 0x20, 0x30, 0x55] = .instr (.login 0x02 [0x10, 0x20, 0x30]) [0x55] := by decide
theorem test_decode_heartbeat : decode [0x78, 0x78, 0x02, 0x13, 0x10, 0x20, 0x30, 0x55] = .instr (.heartbeat 0x02 [0x10, 0x20, 0x30]) [0x55] := by decide
theorem test_decode_addrCn : decode [0x78, 0x78, 0x02, 0x17, 0x10, 0x20, 0x30, 0x55] = .instr (.addrCn 0x02 [0x10, 0x20, 0x30]) [0x55] := by decide
theorem test_decode_respOnline : decode [0x78, 0x78, 0x02, 0x21, 0x10, 0x20, 0x30, 0x55] = .instr (.respOnline 0x02 [0x10, 0x20, 0x30]) [0x55] := by decide
theorem test_decode_gps : decode [0x78, 0x78, 0x02, 0x22, 0x10, 0x20, 0x30, 0x55] = .instr (.gps 0x02 [0x10, 0x20, 0x30]) [0x55] := by decide
theorem test_decode_alarm : decode [0x78, 0x78, 0x02, 0x26, 0x10, 0x20, 0x30, 0x55] = .instr (.alarm 0x02 [0x10, 0x20, 0x30]) [0x55] := by decide
theorem test_decode_id27 : decode [0x78, 0x78, 0x02, 0x27, 0x10, 0x20, 0x30, 0x55] = .instr (.id27 0x02 [0x10, 0x20, 0x30]) [0x55] := by decide
theorem test_decode_lbsMulti : decode [0x78, 0x78, 0x02, 0x28, 0x10, 0x20, 0x30, 0x55] = .instr (.lbsMulti 0x02 [0x10, 0x20, 0x30]) [0x55] := by decide
theorem test_decode_addrReq : decode [0x78, 0x78, 0x02, 0x2A, 0x10, 0x20, 0x30, 0x55] = .instr (.addrReq 0x02 [0x10, 0x20, 0x30]) [0x55] := by decide
theorem test_decode_onlineCmd : decode [0x78, 0x78, 0x02, 0x80, 0x10, 0x20, 0x30, 0x55] = .instr (.onlineCmd 0x02 [0x10, 0x20, 0x30]) [0x55] := by decide
theorem test_decode_timeCal : decode [0x78, 0x78, 0x02, 0x8A, 0x10, 0x20, 0x30, 0x55] = .instr (.timeCal 0x02 [0x10, 0x20, 0x30]) [0x55] := by decide
theorem test_decode_infoXfer : decode [0x78, 0x78, 0x02, 0x94, 0x10, 0x20, 0x30, 0x55] = .instr (.infoXfer 0x02 [0x10, 0x20, 0x30]) [0x55] := by decide
theorem test_decode_addrEn : decode [0x78, 0x78, 0x02, 0x97, 0x10, 0x20, 0x30, 0x55] = .instr (.addrEn 0x02 [0x10, 0x20, 0x30]) [0x55] := by decide
theorem test_decode_gpsA0 : decode [0x78, 0x78, 0x02, 0xA0, 0x10, 0x20, 0x30, 0x55] = .instr (.gpsA0 0x02 [0x10, 0x20, 0x30]) [0x55] := by decide
theorem test_decode_lbs4g : decode [0x78, 0x78, 0x02, 0xA1, 0x10, 0x20, 0x30, 0x55] = .instr (.lbs4g 0x02 [0x10, 0x20, 0x30]) [0x55] := by decide
theorem test_decode_fenceAlarm : decode [0x78, 0x78, 0x02, 0xA4, 0x10, 0x20, 0x30, 0x55] = .instr (.fenceAlarm 0x02 [0x10, 0x20, 0x30]) [0x55] := by decide
theorem test_decode_other : decode [0x78, 0x78, 0x05, 0x99, 0x00, 0x0A, 0x28, 0xB4, 0x0D, 0x0A] =
    .instr (.other 0x05 0x99 [0x00, 0x0A, 0x28, 0xB4, 0x0D, 0x0A]) [] := by decide
theorem test_decode_nonsync : decode [0x78, 0x41, 0x78, 0x78, 0x05, 0x01] =
    .instr (.nonsync 0x78 0x41) [0x41, 0x78, 0x78, 0x05, 0x01] := by decide
/-- The login acknowledgment of R136 as one 80-bit word. -/
theorem test_decode_ack : decodeTableWord 80 0x78780501000100000D0A = some (.ack 0x01 0x00 0x01) := by decide
/-- The response of R137 as one 128-bit word. -/
theorem test_decode_timecalRsp : decodeTableWord 128 0x78780B8A26111106170500077B030D0A =
    some (.timecalRsp 0x00 0x07 sampleTime) := by decide
/-- A false sync: `len` is the third `78`, 125 bytes are awaited (V-F6). -/
theorem test_decode_false_sync : decode [0x78, 0x78, 0x78, 0x05, 0x01, 0x00, 0x01, 0xD9, 0xDC, 0x0D, 0x0A] =
    .reject (.incomplete 125) := by decide
theorem test_decode_five_bytes : decode [0x78, 0x78, 0x00, 0x01, 0xBB] = .reject .short := by decide
/-- A header word of R67 placed where the step fetches is the frame that the step emits. -/
theorem test_fetchWord_login : seen (step (State.reset.withFetchWord 32 0x78780001)) =
    some ([.frm [0x78, 0x78, 0x00, 0x01, 0x00]], [0x78, 0x78, 0x00, 0x01, 0x00, 0x00], 5) := by decide
theorem test_encode_timecalRsp : encode (.timecalRsp 0x00 0x07 sampleTime) =
    some [0x78, 0x78, 0x0B, 0x8A, 0x26, 0x11, 0x11, 0x06, 0x17, 0x05, 0x00, 0x07, 0x7B, 0x03, 0x0D, 0x0A] := by
  decide +kernel

/-! ### The frame kinds: the checksums of V-B1 to V-B10 for the serial `12 34` -/

/-- The frame of a kind and the acknowledgment it gets, for the serial `12 34`. -/
def acknowledged (p h l : Byte) : Option (List Event × Bytes × Nat) :=
  some ([.frm [0x78, 0x78, 0x05, p, 0x12, 0x34, 0x00, 0x00, 0x0D, 0x0A],
    .rsp [0x78, 0x78, 0x05, p, 0x12, 0x34, h, l, 0x0D, 0x0A]], [], 10)

/-- The frame of a kind that gets no response. -/
def unanswered (p : Byte) : Option (List Event × Bytes × Nat) :=
  some ([.frm [0x78, 0x78, 0x05, p, 0x12, 0x34, 0x00, 0x00, 0x0D, 0x0A]], [], 10)

/-- What a kind does with a frame of the serial `12 34`, right after reset. -/
def ran (kind : Byte → Bytes → Instr) : Option (List Event × Bytes × Nat) :=
  seen (exec (kind 0x05 [0x12, 0x34, 0x00, 0x00, 0x0D, 0x0A]) State.reset)

theorem test_exec_acknowledged_first : [ran .login, ran .heartbeat, ran .gps, ran .alarm, ran .id27] =
    [acknowledged 0x01 0x19 0xD3,
     acknowledged 0x13 0x29 0xFE,
     acknowledged 0x22 0xF5 0x8C,
     acknowledged 0x26 0x96 0xED,
     acknowledged 0x27 0xCC 0x31] := by decide +kernel
theorem test_exec_acknowledged_second : [ran .lbsMulti, ran .addrReq, ran .gpsA0, ran .lbs4g, ran .fenceAlarm] =
    [acknowledged 0x28 0x86 0xF6,
     acknowledged 0x2A 0x33 0x4E,
     acknowledged 0xA0 0x4C 0xD8,
     acknowledged 0xA1 0x16 0x04,
     acknowledged 0xA4 0x2F 0xB9] := by decide +kernel
theorem test_exec_unanswered : [ran .addrCn, ran .respOnline, ran .onlineCmd, ran .infoXfer, ran .addrEn] =
    [unanswered 0x17, unanswered 0x21, unanswered 0x80, unanswered 0x94, unanswered 0x97] := by decide
/-- V-R4t: the serial of a frame with `len` 4 begins with the protocol id. -/
theorem test_exec_timeCal : seen (exec (.timeCal 0x04 [0x07, 0xAA, 0xBB, 0x0D, 0x0A]) { State.reset with nowPort := [sampleTime] }) =
    some ([.frm [0x78, 0x78, 0x04, 0x8A, 0x07, 0xAA, 0xBB, 0x0D, 0x0A],
      .rsp [0x78, 0x78, 0x0B, 0x8A, 0x26, 0x11, 0x11, 0x06, 0x17, 0x05, 0x8A, 0x07, 0x0A, 0xBF, 0x0D, 0x0A]], [], 9) := by
  decide +kernel
/-- P2: an id of the last row gets no response. -/
theorem test_exec_other : seen (exec (.other 0x05 0x99 [0x00, 0x0A, 0x28, 0xB4, 0x0D, 0x0A]) State.reset) =
    some ([.frm [0x78, 0x78, 0x05, 0x99, 0x00, 0x0A, 0x28, 0xB4, 0x0D, 0x0A]], [], 10) := by decide
/-- V-R1: with `len` 1 the serial is the sync. -/
theorem test_exec_heartbeat_runt : seen (exec (.heartbeat 0x01 [0x0D, 0x0A]) State.reset) =
    some ([.frm [0x78, 0x78, 0x01, 0x13, 0x0D, 0x0A],
      .rsp [0x78, 0x78, 0x05, 0x13, 0x78, 0x78, 0x39, 0xB3, 0x0D, 0x0A]], [], 6) := by decide +kernel
/-- V-R0b, first frame: 5 bytes, no serial, no response although the id is `01`. -/
theorem test_exec_login_five_bytes : seen (exec (.login 0x00 [0xBB]) State.reset) =
    some ([.frm [0x78, 0x78, 0x00, 0x01, 0xBB]], [], 5) := by decide
theorem test_exec_nonsync : seen (exec (.nonsync 0x00 0x78) (holding [0x00, 0x78, 0x78, 0x05, 0x01, 0x00] .scan)) =
    some ([], [0x00, 0x78, 0x78, 0x05, 0x01, 0x00], 1) := by decide

/-! ### `FEED` and its steps -/

/-- V-F3. -/
theorem test_feed_skips_one : seen (exec (.feed [0x01, 0x02, 0x03, 0x04, 0x05, 0x06]) State.reset) =
    some ([], [0x02, 0x03, 0x04, 0x05, 0x06], 0) := by decide
/-- V-F15: the frame completed by a second chunk. -/
theorem test_feed_completes : seen (exec (.feed [0x13, 0x00, 0x05, 0xAF, 0xD5, 0x0D, 0x0A]) (holding [0x78, 0x78, 0x05] .rest)) =
    some ([.frm [0x78, 0x78, 0x05, 0x13, 0x00, 0x05, 0xAF, 0xD5, 0x0D, 0x0A],
      .rsp [0x78, 0x78, 0x05, 0x13, 0x00, 0x05, 0xAF, 0xD5, 0x0D, 0x0A]], [], 0) := by decide +kernel
theorem test_append : seen (exec (.fAppend [0x05, 0x13]) (holding [0x78, 0x78] .rest)) =
    some ([], [0x78, 0x78, 0x05, 0x13], 0) := by decide
theorem test_short_five : position (exec .fShort (holding [1, 2, 3, 4, 5] .scan)) = some (.compact, 0, 0) := by decide
theorem test_short_six : position (exec .fShort (holding [1, 2, 3, 4, 5, 6] .scan)) = some (.sync, 0, 0) := by decide
theorem test_skip_one_of_two : position (exec .fSkip (holding [0x78, 0x79, 3, 4, 5, 6] .sync)) = some (.scan, 1, 0) := by
  decide
theorem test_skip_match : position (exec .fSkip (holding [0x78, 0x78, 3, 4, 5, 6] .sync)) = some (.len, 0, 0) := by
  decide
/-- R23: `len` `FF` gives 260, not 4. -/
theorem test_len_is_not_truncated : position (exec .fLen (holding [0x78, 0x78, 0xFF, 0x13, 0x00, 0x01] .len)) =
    some (.wait, 0, 260) := by decide
theorem test_wait_one_missing : position (exec .fWait { holding [0x78, 0x78, 0x02, 0x13, 1, 2] .wait with fl := 7 }) =
    some (.compact, 0, 7) := by decide
theorem test_wait_complete : position (exec .fWait { holding [0x78, 0x78, 0x01, 0x13, 1, 2] .wait with fl := 6 }) =
    some (.emit, 0, 6) := by decide
theorem test_emit : seen (exec .fEmit { holding [9, 0x78, 0x78, 0x01, 0x13, 1, 2, 7] .emit with off := 1, fl := 6 }) =
    some ([.frm [0x78, 0x78, 0x01, 0x13, 1, 2]], [9, 0x78, 0x78, 0x01, 0x13, 1, 2, 7], 7) := by decide
theorem test_compact : seen (exec .fCompact { holding [1, 2, 3, 4] .compact with off := 3 }) = some ([], [4], 0) := by
  decide

/-! ### Extraction, checksum, responses -/

/-- V-X2. -/
theorem test_extract_login : fields (exec (.extract [0x78, 0x78, 0x0D, 0x01, 0x01, 0x23, 0x45, 0x67, 0x89, 0x01, 0x23, 0x45,
    0x00, 0x01, 0x8C, 0xDD, 0x0D, 0x0A]) State.reset) = some (0x01, 0x00, 0x01, true) := by decide
/-- V-X3. -/
theorem test_extract_no_serial : fields (exec (.extract [0x78, 0x78, 0x00, 0xAA, 0xBB]) State.reset) =
    some (0xAA, 0x00, 0x00, false) := by decide
/-- V-C9. -/
theorem test_crc16_check_value : returned (exec (.crc16 [0x31, 0x32, 0x33, 0x34, 0x35, 0x36, 0x37, 0x38, 0x39]) State.reset) =
    some (.checksum 0x906E) := by decide +kernel
/-- V-C1 to V-C8 and V-C11 to V-C13. -/
theorem test_crc16_values : [[], [0x00], [0x01], [0x78], [0x80], [0xFF], [0x78, 0x78], [0x0D, 0x0A], [0x05, 0x13, 0x00, 0x05],
    [0x0B, 0x8A, 0x26, 0x11, 0x11, 0x06, 0x17, 0x05, 0x00, 0x07],
    [0x0D, 0x01, 0x01, 0x23, 0x45, 0x67, 0x89, 0x01, 0x23, 0x45, 0x00, 0x01]].map crc16 =
    [0x0000, 0xF078, 0xE1F1, 0x0FB7, 0x7470, 0xFF00, 0xCE8C, 0x1065, 0xAFD5, 0x7B03, 0x8CDD] := by decide +kernel
theorem test_crcInit : (match exec .crcInit State.reset with | .next t => some t.crc | _ => none) = some 0xFFFF := by decide
/-- R128: the eight shifts of the first byte of V-C10. -/
theorem test_crc_shifts : (List.range 8).map (fun n => crcShifts (n + 1) 0xFFFA) =
    [0x7FFD, 0xBBF6, 0x5DFB, 0xAAF5, 0xD172, 0x68B9, 0xB054, 0x582A] := by decide
/-- R128: the register after the second byte. -/
theorem test_crcByte : (match exec (.crcByte 0x01) { State.reset with crc := 0x582A } with | .next t => some t.crc | _ => none) =
    some 0x9F89 := by decide
theorem test_crcFinal : returned (exec .crcFinal { State.reset with crc := 0x2623 }) = some (.checksum 0xD9DC) := by decide
/-- V-B1, serial `FF FF`. -/
theorem test_ack : returned (exec (.ack 0x01 0xFF 0xFF) State.reset) =
    some (.response (some [0x78, 0x78, 0x05, 0x01, 0xFF, 0xFF, 0x38, 0xED, 0x0D, 0x0A])) := by decide +kernel
/-- V-B11e. -/
theorem test_timecalRsp : returned (exec (.timecalRsp 0xFF 0xFF ⟨99, 12, 31, 23, 59, 59⟩) State.reset) =
    some (.response (some [0x78, 0x78, 0x0B, 0x8A, 0x99, 0x12, 0x31, 0x23, 0x59, 0x59, 0xFF, 0xFF, 0x9D, 0xA2, 0x0D, 0x0A])) := by
  decide +kernel
/-- V-B11g: a second of 60 is encoded as given. -/
theorem test_build_timecal : returned (exec (.build 0x8A 0x00 0x01 ⟨30, 6, 15, 12, 0, 60⟩) State.reset) =
    some (.response (some [0x78, 0x78, 0x0B, 0x8A, 0x30, 0x06, 0x15, 0x12, 0x00, 0x60, 0x00, 0x01, 0x0B, 0xA1, 0x0D, 0x0A])) := by
  decide +kernel
/-- V-B12, V-B13. -/
theorem test_build_nothing : [0x17, 0x21, 0x80, 0x94, 0x97, 0x00, 0x02, 0x12, 0x14, 0x23, 0x29, 0x2B, 0x79, 0x89, 0x8B, 0x99, 0xA2,
    0xA3, 0xA5, 0xFF].all (fun p => returned (exec (.build p 0x00 0x01 sampleTime) State.reset) == some (.response none)) = true := by
  decide
/-- V-F10: neither checksum nor trailer of the inbound frame is looked at. -/
theorem test_process_wrong_checksum : seen (exec (.process [0x78, 0x78, 0x05, 0x01, 0x00, 0x01, 0x00, 0x00, 0xFF, 0xFF]) State.reset) =
    some ([.rsp [0x78, 0x78, 0x05, 0x01, 0x00, 0x01, 0xD9, 0xDC, 0x0D, 0x0A]], [], 0) := by decide +kernel
/-- Table R201: an id without an entry in Table R70 is unknown, a named id without a response is not. -/
theorem test_unknown_protocol :
    [0x99, 0x17, 0x21, 0x80, 0x94, 0x97, 0x01].map (fun p => processCondition [0x78, 0x78, 0x01, p, 0x0D, 0x0A] sampleTime) =
    [some .unknownProtocol, none, none, none, none, none, none] := by decide
theorem test_reset : seen (exec .reset (holding [1, 2, 3] .rest)) = some ([], [], 0) := by decide
/-- The first rows of V-D. -/
theorem test_bcd : [0, 1, 9, 10, 11, 19, 26, 59, 60, 90, 99].map bcd =
    [0x00, 0x01, 0x09, 0x10, 0x11, 0x19, 0x26, 0x59, 0x60, 0x90, 0x99] := by decide

/-! ### Witnesses: the hypotheses of each statement are met -/

/-- The empty block is at rest. -/
theorem reset_atRest : AtRest State.reset := holding_atRest [] (by decide)

/-- A login with the serial `00 01` (R143). -/
def loginFrame : Bytes := [0x78, 0x78, 0x05, 0x01, 0x00, 0x01, 0xD9, 0xDC, 0x0D, 0x0A]

theorem witness_StreamFormsDecodeTheirEncoding :
    (Instr.wellFormed (.login 0x00 [0xBB]) = true ∧ Instr.isStreamForm (.login 0x00 [0xBB]) = true ∧
      encode (.login 0x00 [0xBB]) = some [0x78, 0x78, 0x00, 0x01, 0xBB] ∧ 6 ≤ ([0x78, 0x78, 0x00, 0x01, 0xBB] ++ [0x01] : Bytes).length) ∧
    (Instr.wellFormed (.nonsync 0x78 0x79) = true ∧ Instr.isStreamForm (.nonsync 0x78 0x79) = true ∧
      encode (.nonsync 0x78 0x79) = some [0x78, 0x79] ∧ 6 ≤ ([0x78, 0x79] ++ [1, 2, 3, 4] : Bytes).length) := by decide

theorem witness_DecodedFormsEncodeBack :
    decode (loginFrame ++ [0x78]) = .instr (.login 0x05 [0x00, 0x01, 0xD9, 0xDC, 0x0D, 0x0A]) [0x78] ∧
    decode [0x78, 0x79, 1, 2, 3, 4] = .instr (.nonsync 0x78 0x79) [0x79, 1, 2, 3, 4] := by decide

theorem witness_ResponseFormsDecodeTheirEncoding :
    (Instr.wellFormed (.ack 0xA4 0xFF 0x00) = true ∧ Instr.isStreamForm (.ack 0xA4 0xFF 0x00) = false ∧
      (encode (.ack 0xA4 0xFF 0x00)).isSome = true) ∧
    (Instr.wellFormed (.timecalRsp 0 1 ⟨99, 99, 99, 99, 99, 99⟩) = true ∧
      Instr.isStreamForm (.timecalRsp 0 1 ⟨99, 99, 99, 99, 99, 99⟩) = false ∧
      (encode (.timecalRsp 0 1 ⟨99, 99, 99, 99, 99, 99⟩)).isSome = true) := by decide

theorem witness_ProtocolIdSelectsTheKind :
    ([0xBB] : Bytes).length = (0x00 : Byte).toNat + 1 ∧ 6 ≤ ([0xBB] : Bytes).length + ([0x01] : Bytes).length + 4 ∧
    ((0x01, .login) : Byte × (Byte → Bytes → Instr)) ∈ ackKinds ∧ ((0x17, .addrCn) : Byte × (Byte → Bytes → Instr)) ∈ silentKinds ∧
    (0x99 : Byte) ∉ ackSet ∧ (0x99 : Byte) ≠ 0x8A ∧ (0x99 : Byte) ∉ silentKinds.map Prod.fst :=
  ⟨rfl, by decide, .head _, .head _, by decide, by decide, by decide⟩

theorem witness_StepRunsTheInstructionAtTheScanOffset :
    BufOk (holding loginFrame .scan) ∧ (holding loginFrame .scan).off ≤ (holding loginFrame .scan).bufLen ∧
    (holding loginFrame .scan).ctl = .scan ∧
    decode (holding loginFrame .scan).window = .instr (.login 0x05 [0x00, 0x01, 0xD9, 0xDC, 0x0D, 0x0A]) [] :=
  ⟨holding_bufOk _ _, Nat.zero_le _, rfl, by decide⟩

theorem witness_StepAtRestTakesThePlatformsNext :
    State.reset.ctl = .rest ∧ State.reset.pending = [] ∧
    ({ State.reset with pending := [.feed [1]] } : State).pending = .feed [1] :: [] ∧
    (Instr.isStreamForm (.nonsync 1 2) = true ∧ encode (.nonsync 1 2) = some [1, 2]) ∧
    (Instr.isStreamForm .reset = false ∧ ∀ c, Instr.reset ≠ .feed c) :=
  ⟨rfl, rfl, rfl, ⟨rfl, rfl⟩, rfl, nofun⟩

theorem witness_StepInsideAPassFollowsThePseudocode :
    (BufOk (holding [1, 2, 3, 4, 5] .scan) ∧ (holding [1, 2, 3, 4, 5] .scan).off ≤ (holding [1, 2, 3, 4, 5] .scan).bufLen ∧
      (holding [1, 2, 3, 4, 5] .scan).ctl = .scan ∧ isStalled (holding [1, 2, 3, 4, 5] .scan).window = true) ∧
    ∀ c : Ctl, (holding [] c).ctl = c :=
  ⟨⟨holding_bufOk _ _, Nat.zero_le _, rfl, by decide⟩, fun _ => rfl⟩

theorem witness_StepKeepsTheInvariant : StateInv (holding loginFrame .scan) ∧ ∃ t, step (holding loginFrame .scan) = .next t :=
  ⟨holding_scanInv _, _, rfl⟩

theorem witness_ResetStateHasTheInvariant : ∀ i ∈ [Instr.feed [1], .reset, .login 0x00 [0xBB]], Instr.platformMay i = true := by
  decide

theorem witness_NoStepStops : StateInv (holding loginFrame .scan) := holding_scanInv _

/-- Both cases of R25: one byte, and six bytes of a longer frame. -/
theorem witness_BetweenOperationsTheBufferHoldsNoCompleteFrame :
    (∀ i ∈ [Instr.feed [0x78]], Instr.platformMay i = true) ∧
    (∃ t : State, Sys2Proof.core.run 3 ({ State.reset with pending := [.feed [0x78]] } : State) = .next t ∧
      t.ctl = .rest ∧ t.bufLen = 1) ∧
    (∀ i ∈ [Instr.feed [0x78, 0x78, 0x05, 0x01, 0x00, 0x01]], Instr.platformMay i = true) ∧
    (∃ t : State, Sys2Proof.core.run 6 ({ State.reset with pending := [.feed [0x78, 0x78, 0x05, 0x01, 0x00, 0x01]] } : State) = .next t ∧
      t.ctl = .rest ∧ t.bufLen = 6) :=
  ⟨by decide, ⟨_, rfl, rfl, rfl⟩, by decide, ⟨_, rfl, rfl, rfl⟩⟩

/-- The most a block holds at rest: 259 bytes of a frame of 260 (V-F16). -/
def fullest : State := { holding ([0x78, 0x78, 0xFF] ++ List.replicate 256 0) .rest with fl := 260 }

theorem witness_AppendNeverOverflows : AtRest fullest ∧ 1 ≤ 1 ∧ ([0x0A] : Bytes).length ≤ 1 := by
  refine ⟨⟨⟨?_, Nat.zero_le _, rfl, .inl rfl, ⟨rfl, ?_, fun _ => ?_⟩, nofun⟩, rfl⟩, Nat.le_refl _, Nat.le_refl _⟩
  · exact holding_bufOk _ .rest
  · rw [show fullest.bytes = _ from holding_bytes _ .rest]
    decide +kernel
  · rw [show fullest.bytes = _ from holding_bytes _ .rest]
    rfl

theorem witness_EmittedEventsStay : (∃ t, exec (.feed loginFrame) State.reset = .next t) ∧ ∃ t, step State.reset = .next t :=
  ⟨⟨_, rfl⟩, _, rfl⟩

theorem witness_FeedRealisesThePass : AtRest State.reset := reset_atRest

theorem witness_SteppingAFeedIsTheFeed :
    AtRest { State.reset with pending := [.feed loginFrame] } ∧
    ({ State.reset with pending := [.feed loginFrame] } : State).pending = .feed loginFrame :: [] :=
  ⟨⟨⟨⟨rfl, rfl⟩, Nat.le_refl _, rfl, .inl rfl, reset_atRest.1.control, by decide⟩, rfl⟩, rfl⟩

theorem witness_FragmentationInvariance : AtRest (holding [1, 2, 3, 4, 5] .rest) := holding_atRest _ (by decide)

theorem witness_EmptyFeedIsANoOp : AtRest (holding [1, 2, 3, 4, 5] .rest) := holding_atRest _ (by decide)

theorem witness_PartialFrameIsRetained :
    AtRest State.reset ∧ State.reset.bufLen = 0 ∧ ([0x78, 0x78, 0x01, 0x13, 0x0D] : Bytes) ≠ [] ∧ ([0x0A] : Bytes) ≠ [] ∧
    isFrame ([0x78, 0x78, 0x01, 0x13, 0x0D] ++ [0x0A]) = true ∧ 6 ≤ ([0x78, 0x78, 0x01, 0x13, 0x0D] ++ [0x0A] : Bytes).length :=
  ⟨reset_atRest, rfl, by decide, by decide, by decide, by decide⟩

theorem witness_GarbageBeforeAFrameIsDiscarded :
    AtRest State.reset ∧ State.reset.bufLen = 0 ∧ isFrame loginFrame = true ∧ 6 ≤ loginFrame.length ∧
    ∀ i, i < ([0x00, 0xFF, 0x41] : Bytes).length →
      ¬ ((([0x00, 0xFF, 0x41] : Bytes) ++ loginFrame)[i]? = some 0x78 ∧ (([0x00, 0xFF, 0x41] : Bytes) ++ loginFrame)[i + 1]? = some 0x78) :=
  ⟨reset_atRest, rfl, by decide, by decide, by decide⟩

theorem witness_FiveByteFrameWaitsForOneMore : AtRest State.reset ∧ State.reset.bufLen = 0 := ⟨reset_atRest, rfl⟩

theorem witness_OneByteFeedMakesAtMostOneMove : AtRest (holding [1, 2, 3, 4, 5] .rest) := holding_atRest _ (by decide)

theorem witness_PassEndsWithinBufLenPlusOneIterations :
    StateInv (holding loginFrame .scan) ∧ (holding loginFrame .scan).ctl = .scan := ⟨holding_scanInv _, rfl⟩

theorem witness_InstructionsAreIterationsOfThePass :
    StateInv (holding loginFrame .scan) ∧ (holding loginFrame .scan).ctl = .scan ∧
    decode (holding loginFrame .scan).window = .instr (.login 0x05 [0x00, 0x01, 0xD9, 0xDC, 0x0D, 0x0A]) [] :=
  ⟨holding_scanInv _, rfl, by decide⟩

theorem witness_AppendStoresTheChunkInOrder :
    BufOk (holding [1, 2] .rest) ∧ 0 < (holding [1, 2] .rest).bufLen ∧ 0 < ([3] : Bytes).length := ⟨holding_bufOk _ _, by decide, by decide⟩

theorem witness_SkipAdvancesByExactlyOne :
    (BufOk (holding [0x78, 0x79] .sync) ∧ Memory.read (holding [0x78, 0x79] .sync).buf 0 = some 0x78 ∧
      Memory.read (holding [0x78, 0x79] .sync).buf 1 = some 0x79 ∧ ¬ ((0x78 : Byte) = 0x78 ∧ (0x79 : Byte) = 0x78)) ∧
    (BufOk (holding [0x78, 0x78] .sync) ∧ Memory.read (holding [0x78, 0x78] .sync).buf 0 = some 0x78 ∧
      Memory.read (holding [0x78, 0x78] .sync).buf 1 = some 0x78) :=
  ⟨⟨holding_bufOk _ _, rfl, rfl, by decide⟩, holding_bufOk _ _, rfl, rfl⟩

theorem witness_LenReadsTheFrameLength :
    BufOk (holding [0x78, 0x78, 0xFF] .len) ∧ Memory.read (holding [0x78, 0x78, 0xFF] .len).buf (0 + 2) = some 0xFF :=
  ⟨holding_bufOk _ _, rfl⟩

theorem witness_EmitSlicesTheFrame :
    BufOk { holding loginFrame .emit with fl := 10 } ∧
    ({ holding loginFrame .emit with fl := 10 } : State).off + ({ holding loginFrame .emit with fl := 10 } : State).fl.toNat ≤
      ({ holding loginFrame .emit with fl := 10 } : State).bufLen :=
  ⟨holding_bufOk loginFrame .emit, by decide⟩

theorem witness_CompactKeepsTheBytesFromTheOffset :
    BufOk { holding loginFrame .compact with off := 10 } ∧
    ({ holding loginFrame .compact with off := 10 } : State).off ≤ ({ holding loginFrame .compact with off := 10 } : State).bufLen :=
  ⟨holding_bufOk loginFrame .compact, by decide⟩

/-- Each clause at its boundary: one byte to compare, two bytes before `len`, one byte missing of the frame. -/
theorem witness_ReadsOutsideTheBufferFault :
    (BufOk (holding [1] .sync) ∧ (holding [1] .sync).bufLen ≤ (holding [1] .sync).off + 1) ∧
    (BufOk (holding [1, 2] .len) ∧ (holding [1, 2] .len).bufLen ≤ (holding [1, 2] .len).off + 2) ∧
    (BufOk { holding [1, 2] .emit with fl := 3 } ∧ 0 < ({ holding [1, 2] .emit with fl := 3 } : State).fl.toNat ∧
      ({ holding [1, 2] .emit with fl := 3 } : State).bufLen <
        ({ holding [1, 2] .emit with fl := 3 } : State).off + ({ holding [1, 2] .emit with fl := 3 } : State).fl.toNat) :=
  ⟨⟨holding_bufOk _ _, by decide⟩, ⟨holding_bufOk _ _, by decide⟩, holding_bufOk [1, 2] .emit, by decide, by decide⟩

/-- The shortest frame with a serial, and one with `len` `FF`. -/
theorem witness_AckKindsAreAcknowledged :
    ((0x13, .heartbeat) : Byte × (Byte → Bytes → Instr)) ∈ ackKinds ∧
    (([0x0D, 0x0A] : Bytes).length = (0x01 : Byte).toNat + 1 ∧ 1 ≤ (0x01 : Byte).toNat ∧
      ([0x78, 0x78, 0x01, 0x13, 0x0D, 0x0A] : Bytes)[(0x01 : Byte).toNat - 1]? = some 0x78 ∧
      ([0x78, 0x78, 0x01, 0x13, 0x0D, 0x0A] : Bytes)[(0x01 : Byte).toNat]? = some 0x78) ∧
    ((List.replicate 256 (7 : Byte)).length = (0xFF : Byte).toNat + 1 ∧ 1 ≤ (0xFF : Byte).toNat ∧
      ((0x78 :: 0x78 :: 0xFF :: 0x13 :: List.replicate 256 7 : Bytes))[(0xFF : Byte).toNat - 1]? = some 7 ∧
      ((0x78 :: 0x78 :: 0xFF :: 0x13 :: List.replicate 256 7 : Bytes))[(0xFF : Byte).toNat]? = some 7) :=
  ⟨.tail _ (.head _), by decide, by decide +kernel⟩

theorem witness_SilentKindsAreEmittedOnly :
    ((0x17, .addrCn) : Byte × (Byte → Bytes → Instr)) ∈ silentKinds ∧
    ([0x0D, 0x0A] : Bytes).length = (0x01 : Byte).toNat + 1 ∧ 1 ≤ (0x01 : Byte).toNat ∧
    ([0x78, 0x78, 0x01, 0x17, 0x0D, 0x0A] : Bytes)[(0x01 : Byte).toNat - 1]? = some 0x78 ∧
    ([0x78, 0x78, 0x01, 0x17, 0x0D, 0x0A] : Bytes)[(0x01 : Byte).toNat]? = some 0x78 ∧
    ([0x78, 0x78, 0x01, 0x99, 0x0D, 0x0A] : Bytes)[(0x01 : Byte).toNat - 1]? = some 0x78 ∧
    ([0x78, 0x78, 0x01, 0x99, 0x0D, 0x0A] : Bytes)[(0x01 : Byte).toNat]? = some 0x78 :=
  ⟨.head _, by decide⟩

theorem witness_TimeCalIsAnsweredWithTheTime :
    ([0x0D, 0x0A] : Bytes).length = (0x01 : Byte).toNat + 1 ∧ 1 ≤ (0x01 : Byte).toNat ∧
    ([0x78, 0x78, 0x01, 0x8A, 0x0D, 0x0A] : Bytes)[(0x01 : Byte).toNat - 1]? = some 0x78 ∧
    ([0x78, 0x78, 0x01, 0x8A, 0x0D, 0x0A] : Bytes)[(0x01 : Byte).toNat]? = some 0x78 ∧
    ({ State.reset with nowPort := [⟨99, 99, 99, 99, 99, 99⟩] } : State).nowValue.inRange = true := by decide

theorem witness_TimeOutOfRangeLeavesOnlyTheTimeBytesOpen :
    ([0x0D, 0x0A] : Bytes).length = (0x01 : Byte).toNat + 1 ∧ 1 ≤ (0x01 : Byte).toNat ∧
    ([0x78, 0x78, 0x01, 0x8A, 0x0D, 0x0A] : Bytes)[(0x01 : Byte).toNat - 1]? = some 0x78 ∧
    ([0x78, 0x78, 0x01, 0x8A, 0x0D, 0x0A] : Bytes)[(0x01 : Byte).toNat]? = some 0x78 ∧
    ({ State.reset with nowPort := [⟨100, 1, 1, 0, 0, 0⟩] } : State).nowValue.inRange = false := by decide

theorem witness_FiveByteFramesGetNoResponse :
    ((0x01, .login) : Byte × (Byte → Bytes → Instr)) ∈ ackKinds ∧ ((0x17, .addrCn) : Byte × (Byte → Bytes → Instr)) ∈ silentKinds :=
  ⟨.head _, .head _⟩

/-- Frames of 5 bytes, of 6 bytes and of 260 bytes. -/
theorem witness_ExtractTakesIdAndSerial :
    (isFrame [0x78, 0x78, 0x00, 0xAA, 0xBB] = true ∧ ([0x78, 0x78, 0x00, 0xAA, 0xBB] : Bytes).length = 5) ∧
    (isFrame [0x78, 0x78, 0x01, 0x13, 0x0D, 0x0A] = true ∧ 6 ≤ ([0x78, 0x78, 0x01, 0x13, 0x0D, 0x0A] : Bytes).length) ∧
    (isFrame ([0x78, 0x78, 0xFF, 0x13] ++ List.replicate 256 0) = true ∧
      6 ≤ ([0x78, 0x78, 0xFF, 0x13] ++ List.replicate 256 0 : Bytes).length) := by decide +kernel

theorem witness_TimecalFormIsBuilt : Now.inRange ⟨99, 99, 99, 99, 99, 99⟩ = true ∧ Now.inRange ⟨0, 0, 0, 0, 0, 0⟩ = true := by decide

theorem witness_BuildDecidesByProtocolId :
    (0x8A : Byte) = 0x8A ∧ (0xA4 : Byte) ∈ ([0x01, 0x13, 0x22, 0x26, 0x27, 0x28, 0x2A, 0xA0, 0xA1, 0xA4] : List Byte) ∧
    (0xA3 : Byte) ≠ 0x8A ∧ (0xA3 : Byte) ∉ ([0x01, 0x13, 0x22, 0x26, 0x27, 0x28, 0x2A, 0xA0, 0xA1, 0xA4] : List Byte) := by decide

theorem witness_AckIdsGetTheAcknowledgment :
    ((0x01, .login) : Byte × (Byte → Bytes → Instr)) ∈ ackKinds ∧
    ((0xA4, .fenceAlarm) : Byte × (Byte → Bytes → Instr)) ∈ ackKinds ∧
    ([0xBB] : Bytes).length = (0x00 : Byte).toNat + 1 ∧ 6 ≤ ([0xBB] : Bytes).length + ([0x01] : Bytes).length + 4 :=
  ⟨.head _, .tail _ (.tail _ (.tail _ (.tail _ (.tail _ (.tail _ (.tail _ (.tail _ (.tail _ (.head _))))))))), rfl, by decide⟩

theorem witness_ResponseChecksumRecomputes :
    (∃ t r, exec (.build 0x01 0x00 0x01 sampleTime) State.reset = .next t ∧ t.result = .response (some r)) ∧
    ∃ t r, exec (.build 0x8A 0x00 0x01 ⟨100, 1, 1, 0, 0, 0⟩) State.reset = .next t ∧ t.result = .response (some r) :=
  ⟨⟨_, _, rfl, rfl⟩, _, _, rfl, rfl⟩

theorem witness_ResponseIsAFrameThatEchoesTheSerial :
    (∃ t r, exec (.build 0x01 0x00 0x01 sampleTime) State.reset = .next t ∧ t.result = .response (some r)) ∧
    ∃ t r, exec (.build 0x8A 0x00 0x01 sampleTime) State.reset = .next t ∧ t.result = .response (some r) :=
  ⟨⟨_, _, rfl, rfl⟩, _, _, rfl, rfl⟩

theorem witness_BuildIsPure :
    ((0x01 : Byte) ≠ 0x8A ∨ (sampleTime = ⟨0, 1, 1, 0, 0, 0⟩ ∧ sampleTime.inRange = true)) ∧
    ((0x8A : Byte) ≠ 0x8A ∨ (sampleTime = sampleTime ∧ sampleTime.inRange = true)) ∧
    (∃ t, exec (.build 0x01 0x00 0x01 sampleTime) State.reset = .next t) ∧
    ∃ t, exec (.build 0x01 0x00 0x01 ⟨0, 1, 1, 0, 0, 0⟩) (holding loginFrame .rest) = .next t :=
  ⟨by decide, by decide, ⟨_, rfl⟩, _, rfl⟩

theorem witness_ProcessAnswersTheFrame :
    (isFrame [0x78, 0x78, 0x00, 0xAA, 0xBB] = true ∧ ([0x78, 0x78, 0x00, 0xAA, 0xBB] : Bytes).length = 5) ∧
    (isFrame loginFrame = true ∧ 6 ≤ loginFrame.length ∧ (0x01 : Byte) ∈ ackSet) ∧
    (isFrame [0x78, 0x78, 0x01, 0x8A, 0x0D, 0x0A] = true ∧
      ({ State.reset with nowPort := [sampleTime] } : State).nowValue.inRange = true) ∧
    (isFrame [0x78, 0x78, 0x01, 0x99, 0x0D, 0x0A] = true ∧ (0x99 : Byte) ∉ ackSet ∧ (0x99 : Byte) ≠ 0x8A) := by decide

theorem witness_ResponseDependsOnIdAndSerialOnly :
    isFrame loginFrame = true ∧ isFrame [0x78, 0x78, 0x06, 0x01, 0x55, 0x00, 0x01, 0x00, 0x00, 0xFF, 0xFF] = true ∧
    loginFrame[3]? = ([0x78, 0x78, 0x06, 0x01, 0x55, 0x00, 0x01, 0x00, 0x00, 0xFF, 0xFF] : Bytes)[3]? ∧
    frameSerial loginFrame = frameSerial [0x78, 0x78, 0x06, 0x01, 0x55, 0x00, 0x01, 0x00, 0x00, 0xFF, 0xFF] := by decide

theorem witness_BcdPutsTheTensDigitHigh : (0 : Nat) ≤ 99 ∧ (99 : Nat) ≤ 99 := by decide

/-- A stall on 5 bytes, a skip, a stall one byte short, and a frame; frames of 5 and of 6 bytes. -/
theorem witness_ConditionsFollowTheTestOrder :
    (StateInv (holding [1, 2, 3, 4, 5] .scan) ∧ (holding [1, 2, 3, 4, 5] .scan).ctl = .scan ∧
      (holding [1, 2, 3, 4, 5] .scan).avail < 6) ∧
    (StateInv (holding [0x78, 0x79, 3, 4, 5, 6] .scan) ∧ 6 ≤ (holding [0x78, 0x79, 3, 4, 5, 6] .scan).avail ∧
      ¬ startsSync (holding [0x78, 0x79, 3, 4, 5, 6] .scan).window) ∧
    (StateInv (holding [0x78, 0x78, 0x02, 4, 5, 6] .scan) ∧
      (holding [0x78, 0x78, 0x02, 4, 5, 6] .scan).window = 0x78 :: 0x78 :: 0x02 :: [4, 5, 6] ∧
      6 ≤ (holding [0x78, 0x78, 0x02, 4, 5, 6] .scan).avail ∧
      (holding [0x78, 0x78, 0x02, 4, 5, 6] .scan).avail < (0x02 : Byte).toNat + 5) ∧
    (StateInv (holding loginFrame .scan) ∧ passCondition (holding loginFrame .scan).window = none) ∧
    isFrame [0x78, 0x78, 0x00, 0x8A, 0xBB] = true ∧ isFrame [0x78, 0x78, 0x01, 0x8A, 0x0D, 0x0A] = true :=
  ⟨⟨holding_scanInv _, rfl, by decide⟩, ⟨holding_scanInv _, by decide, by unfold startsSync; decide⟩,
    ⟨holding_scanInv _, rfl, by decide, by decide⟩, ⟨holding_scanInv _, by decide⟩, by decide, by decide⟩

theorem witness_ResetTwiceChangesNothing : ∃ t, exec .reset (holding loginFrame .rest) = .next t := ⟨_, rfl⟩

theorem witness_ResetForgetsTheEarlierStream :
    State.reset.nowPort = (holding loginFrame .rest).nowPort ∧ State.reset.draws = (holding loginFrame .rest).draws := ⟨rfl, rfl⟩

theorem witness_TransientRegistersAreUnobservable : AtRest (holding [1, 2, 3, 4, 5] .rest) := holding_atRest _ (by decide)

end Sys2Proof.Tests
end

section
/-! PROOF. A `FEED` taken step by step and a `FEED` as one transition (spec/20_memory.md R48, R54;
spec/40_framer.md R90): each iteration of the loop is a run of steps, hence so is the loop, and the entry and
`F.COMPACT` are one step each. -/

namespace Sys2Proof.Machine

/-! ### A step inside the pass -/

/-- At the head of the loop, with the buffer in canonical form: where a step fetches an instruction. -/
structure AtLoopHead (s : State) : Prop where
  buffer : BufOk s
  offset : s.off ≤ s.bufLen
  control : s.ctl = .scan

theorem AtLoopHead.step_of_instr {s : State} {i : Instr} {left : Bytes} (h : AtLoopHead s)
    (hd : decode s.window = .instr i left) : step s = exec i s := by
  simp only [step, h.control, stepScan, withFetch_eq h.buffer h.offset, hd]

theorem AtLoopHead.step_of_reject {s : State} {r : Reject} (h : AtLoopHead s)
    (hd : decode s.window = .reject r) : step s = exec .fShort s := by
  simp only [step, h.control, stepScan, withFetch_eq h.buffer h.offset, hd]

/-- Settles O7: the fetch of a step sees exactly the bytes from `OFF` on. -/
theorem stepRunsTheInstructionAtTheScanOffset : Obligations.StepRunsTheInstructionAtTheScanOffset :=
  fun _ _ _ hb ho hc hd => AtLoopHead.step_of_instr ⟨hb, ho, hc⟩ hd

theorem step_of_feed {s : State} {c : Bytes} {ops : List Instr} (hc : s.ctl = .rest)
    (hp : s.pending = .feed c :: ops) : step s = .next ({ s with pending := ops }.enterFeed c) := by
  simp only [step, hc, stepRest, hp, fedBytes]

theorem step_of_compact {s : State} (hc : s.ctl = .compact) : step s = .next (s.compact.goto .rest) := by
  simp only [step, hc, exec, execFCompact]

/-- `F.APPEND` keeps the canonical form, and the entry of a `FEED` puts the control at the head of the loop. -/
theorem enterFeed_atLoopHead {s : State} (h : BufOk s) (c : Bytes) : AtLoopHead (s.enterFeed c) :=
  ⟨bufOk_of_eq (append_bufOk h c) rfl rfl, Nat.zero_le _, rfl⟩

/-! ### Runs of steps -/

/-- A run of steps, each answering a next state, leads from `s` to `t`. -/
def Reaches : State → State → Prop := Relation.ReflTransGen fun s t => step s = .next t

theorem Reaches.single {s t : State} (h : step s = .next t) : Reaches s t := Relation.ReflTransGen.single h

theorem Reaches.head {s t u : State} (h : step s = .next t) (htu : Reaches t u) : Reaches s u :=
  Relation.ReflTransGen.head h htu

theorem Reaches.trans {s t u : State} (hst : Reaches s t) (htu : Reaches t u) : Reaches s u :=
  Relation.ReflTransGen.trans hst htu

theorem Reaches.exists_run {s t : State} (h : Reaches s t) : ∃ n, Sys2Proof.core.run n s = .next t := by
  induction h using Relation.ReflTransGen.head_induction_on with
  | refl => exact ⟨0, rfl⟩
  | head hstep _ ih =>
    obtain ⟨n, hn⟩ := ih
    exact ⟨n + 1, (core_run_next hstep).trans hn⟩

/-! ### One iteration of the loop -/

/-- The two ways an iteration ends: before `F.COMPACT`, or at the head of the loop with fewer bytes left,
which bounds the number of iterations (40_framer.md R102). -/
def EndsOrAdvances (s t : State) : Prop := t.ctl = .compact ∨ AtLoopHead t ∧ t.avail < s.avail

/-- With a frame begun and not complete at `OFF`, the four tests of the pass are four steps, from `F.SHORT` to `F.WAIT`
(R92, R94, R95, R96). -/
theorem AtLoopHead.reaches_of_incomplete {s : State} {len : Byte} {more : Bytes} (h : AtLoopHead s)
    (hw : s.window = syncByte :: syncByte :: len :: more) (h6 : 6 ≤ s.window.length)
    (hl : s.window.length < frameLength len) : Reaches s ({ s with fl := frameLength9 len }.goto .compact) := by
  have hlen := window_length h.buffer
  have hshort : step s = .next (s.goto .sync) := by
    have hs : ¬ s.isShort = true := by rw [isShort_iff]; omega
    rw [h.step_of_reject (hw ▸ decode_of_incomplete (hw ▸ h6) (hw ▸ hl))]
    simp only [exec, execFShort, if_neg hs]
  have hskip : step (s.goto .sync) = .next (s.goto .len) := by
    have := execFSkip_window (s := s.goto .sync) h.buffer hw
    rwa [if_pos ⟨rfl, rfl⟩] at this
  have hflen : step (s.goto .len) = .next ({ s with fl := frameLength9 len }.goto .wait) :=
    execFLen_window (s := s.goto .len) h.buffer hw
  have hwait : step ({ s with fl := frameLength9 len }.goto .wait)
      = .next ({ s with fl := frameLength9 len }.goto .compact) := by
    have hi : ({ s with fl := frameLength9 len }.goto .wait).isIncomplete = true := by
      rw [isIncomplete_iff]
      show s.avail < (frameLength9 len).toNat
      rw [frameLength9_toNat]
      omega
    simp only [step, State.goto_ctl, exec, execFWait, if_pos hi]
    rfl
  exact .head hshort (.head hskip (.head hflen (.single hwait)))

/-- `PROCESS` of the frame at `OFF` ends at the head of the loop, past the frame (R97, 42_response.md R160). -/
theorem AtLoopHead.processFrame_advances {s : State} {len pid : Byte} {tail rest : Bytes} (h : AtLoopHead s)
    (hw : s.window = frameBytes len pid tail ++ rest) (ht : tail.length = len.toNat + 1) :
    ∃ t, processFrame (frameBytes len pid tail) (s.afterEmit len pid tail) = .next t ∧ EndsOrAdvances s t := by
  obtain ⟨t, hp, hbuf, hbufLen, hoff, -, hctl, -⟩ := processFrame_next len pid tail (s.afterEmit len pid tail)
  have hfit : frameLength len ≤ s.bufLen - s.off := by
    have hlen := window_length h.buffer
    rw [hw, List.length_append, frameBytes_length, State.avail] at hlen
    rw [frameLength_eq]
    omega
  simp only [State.afterEmit_buf, State.afterEmit_bufLen, State.afterEmit_off, State.afterEmit_ctl]
    at hbuf hbufLen hoff hctl
  have hpos := frameLength_eq len
  have hso := h.offset
  refine ⟨t, hp, .inr ⟨⟨bufOk_of_eq h.buffer hbuf hbufLen, by omega, hctl⟩, ?_⟩⟩
  rw [State.avail, State.avail, hbufLen, hoff]
  omega

/-- An iteration of the loop is a run of steps, in each of the four cases of R93 (log 6). -/
theorem AtLoopHead.passIteration_reaches {s : State} (h : AtLoopHead s) :
    ∃ t, passIteration s = .next t ∧ Reaches s t ∧ EndsOrAdvances s t := by
  have hlen := window_length h.buffer
  rcases iteration_cases s h.buffer h.offset with
    ⟨h6, hit⟩ | ⟨a, b, more, hw, h6, hm, hit⟩ | ⟨len, more, hw, h6, hl, hit⟩ | ⟨len, pid, tail, rest, hw, h6, ht, hit⟩
  case inl =>
    have hs : s.isShort = true := by rw [isShort_iff]; omega
    refine ⟨_, hit, .single ?_, .inl rfl⟩
    rw [h.step_of_reject (decode_of_short h6)]
    simp only [exec, execFShort, if_pos hs]
  case inr.inl =>
    have hstep : step s = exec (.nonsync a b) s := h.step_of_instr (hw ▸ decode_of_mismatch (hw ▸ h6) hm)
    refine ⟨_, hit, .single hstep, .inr ⟨⟨h.buffer, ?_, rfl⟩, ?_⟩⟩
    all_goals
      simp only [State.goto_off, State.goto_bufLen, State.avail] at hlen ⊢
      omega
  case inr.inr.inl => exact ⟨_, hit, h.reaches_of_incomplete hw h6 hl, .inl rfl⟩
  case inr.inr.inr =>
    obtain ⟨t, hp, hadv⟩ := h.processFrame_advances hw ht
    refine ⟨t, hit.trans hp, .single ?_, hadv⟩
    rw [h.step_of_instr (hw ▸ decode_of_frame ht (hw ▸ h6)), exec_frameInstr, hp]

/-! ### The loop, and the whole operation -/

/-- With more iterations allowed than bytes left, the loop ends before `F.COMPACT`, and a run of steps leads
there (R90, R102). -/
theorem AtLoopHead.passLoop_reaches (n : Nat) {s : State} (h : AtLoopHead s) (hn : s.avail < n) :
    ∃ t, passLoop n s = .next t ∧ Reaches s t ∧ t.ctl = .compact := by
  induction n generalizing s with
  | zero => exact absurd hn (Nat.not_lt_zero _)
  | succ n ih =>
    obtain ⟨t, hit, hst, hend | ⟨ht, hlt⟩⟩ := h.passIteration_reaches
    · exact ⟨t, by rw [passLoop, hit, andThen_next, if_pos hend], hst, hend⟩
    · obtain ⟨u, hloop, htu, hu⟩ := ih ht (by omega)
      have hne : t.ctl ≠ .compact := by simp [ht.control]
      exact ⟨u, by rw [passLoop, hit, andThen_next, if_neg hne, hloop], hst.trans htu, hu⟩

/-- From the entry of a `FEED` a run of steps leads to the state that `FEED` answers. -/
theorem execFeed_reaches {s : State} (h : BufOk s) (c : Bytes) :
    ∃ t, exec (.feed c) s = .next t ∧ Reaches (s.enterFeed c) t := by
  have henough : (s.enterFeed c).avail < (s.enterFeed c).bufLen + 1 := by rw [State.avail]; omega
  obtain ⟨t, hloop, hrun, hc⟩ := (enterFeed_atLoopHead h c).passLoop_reaches _ henough
  refine ⟨t.compact.goto .rest, ?_, hrun.trans (.single (step_of_compact hc))⟩
  rw [exec, execFeed, hloop, andThen_next]

/-- Settles O17: one step enters the `FEED`, and a run of steps leads from there to the state it answers. -/
theorem steppingAFeedIsTheFeed : Obligations.SteppingAFeedIsTheFeed := by
  intro s c ops hrest hp
  obtain ⟨hinv, hctl⟩ := hrest
  have hbuf : BufOk { s with pending := ops } := bufOk_of_eq hinv.buffer rfl rfl
  obtain ⟨t, hfeed, hrun⟩ := execFeed_reaches hbuf c
  obtain ⟨n, hn⟩ := (Reaches.head (step_of_feed hctl hp) hrun).exists_run
  exact ⟨n, hn.trans hfeed.symm⟩

end Sys2Proof.Machine
end

section
/-! PROOF. The encodings (spec/30_encoding.md, spec/42_response.md R141): decode and encode agree in both
directions on the stream forms, and the response forms decode their own bytes. -/

namespace Sys2Proof

open Machine

/-! ### The inbound stream -/

theorem encode_nonsync (a b : Byte) : encode (.nonsync a b) = some [a, b] := rfl

theorem wellFormed_nonsync_iff (a b : Byte) :
    (Instr.nonsync a b).wellFormed = true ↔ ¬ (a = syncByte ∧ b = syncByte) := by
  simp only [Instr.wellFormed, Bool.not_eq_true', ← Bool.not_eq_true, Bool.and_eq_true, beq_iff_eq]

/-- Settles O1: a well-formed stream form is a pair that is no sync, or what the protocol-id map selects for
a frame, and the decoder has one rule for each. -/
theorem streamFormsDecodeTheirEncoding : Obligations.StreamFormsDecodeTheirEncoding := by
  intro i own rest hw hs he h6
  rcases streamForm_cases i hw hs with ⟨a, b, rfl, hm⟩ | ⟨len, pid, tail, rfl, ht⟩
  · rw [encode_nonsync] at he
    obtain rfl := Option.some.inj he
    exact ⟨b :: rest, decode_of_mismatch h6 hm, .inl ⟨a, b, rfl, rfl⟩⟩
  · rw [encode_frameInstr] at he
    obtain rfl := Option.some.inj he
    exact ⟨rest, decode_of_frame ht h6, .inr ⟨frameInstr_ne_nonsync len pid tail, rfl⟩⟩

/-- Settles O2: of the four cases of the decoder (R93) only the mismatch and the complete frame answer an
instruction. -/
theorem decodedFormsEncodeBack : Obligations.DecodedFormsEncodeBack := by
  intro bs i left hd
  rcases decode_cases bs with ⟨-, hdec⟩ | ⟨a, b, more, rfl, -, hm, hdec⟩ | ⟨_, _, -, -, -, hdec⟩ |
    ⟨len, pid, tail, rest, rfl, -, ht, hdec⟩
  case inl => cases hdec.symm.trans hd
  case inr.inr.inl => cases hdec.symm.trans hd
  case inr.inl =>
    obtain ⟨rfl, rfl⟩ := Decoded.instr.inj (hdec.symm.trans hd)
    exact ⟨(wellFormed_nonsync_iff a b).2 hm, rfl, [a, b], encode_nonsync a b, ⟨more, rfl⟩, .inl ⟨a, b, rfl, rfl⟩⟩
  case inr.inr.inr =>
    obtain ⟨rfl, rfl⟩ := Decoded.instr.inj (hdec.symm.trans hd)
    exact ⟨wellFormed_frameInstr pid ht, isStreamForm_frameInstr len pid tail, frameBytes len pid tail,
      encode_frameInstr len pid tail, ⟨rest, rfl⟩, .inr ⟨frameInstr_ne_nonsync len pid tail, rfl⟩⟩

/-! ### The protocol-id map -/

/-- The two tables of named kinds agree with the map on every row (Table R70). -/
theorem frameInstr_of_mem_kinds {k : Byte × (Byte → Bytes → Instr)} (hk : k ∈ ackKinds ++ silentKinds) (len : Byte)
    (tail : Bytes) : frameInstr len k.1 tail = k.2 len tail := by
  simp only [ackKinds, silentKinds, List.cons_append, List.nil_append, List.mem_cons, List.not_mem_nil, or_false] at hk
  rcases hk with rfl | rfl | rfl | rfl | rfl | rfl | rfl | rfl | rfl | rfl | rfl | rfl | rfl | rfl | rfl
  all_goals rfl

theorem frameInstr_of_not_mem_namedPids {pid : Byte} (hp : pid ∉ namedPids) (len : Byte) (tail : Bytes) :
    frameInstr len pid tail = .other len pid tail := by
  simp only [namedPids, List.mem_cons, List.not_mem_nil, or_false, not_or] at hp
  simp only [frameInstr, hp, if_false]

/-- Settles O5: the decoder answers what the map selects, and the map is Table R70. -/
theorem protocolIdSelectsTheKind : Obligations.ProtocolIdSelectsTheKind := by
  intro len tail rest ht h6
  have hdec (pid : Byte) :
      decode (0x78 :: 0x78 :: len :: pid :: (tail ++ rest)) = .instr (frameInstr len pid tail) rest := by
    refine decode_of_frame (pid := pid) ht ?_
    rw [List.length_append, frameBytes_length]
    omega
  refine ⟨fun k hk => ?_, fun k hk => ?_, hdec 0x8A, fun pid hack htime hsilent => ?_⟩
  · rw [hdec, frameInstr_of_mem_kinds (List.mem_append_left _ hk)]
  · rw [hdec, frameInstr_of_mem_kinds (List.mem_append_right _ hk)]
  · have hp : pid ∉ namedPids := by
      rw [mem_namedPids_iff]
      rintro (h | h | h)
      exacts [htime h, hack h, hsilent h]
    rw [hdec, frameInstr_of_not_mem_namedPids hp]

/-- Settles O6: four frames, the last one read from a header word of the table, and a pair that is no sync. -/
theorem sampleWordsDecode : Obligations.SampleWordsDecode := by
  refine ⟨?login, ?timeCal, ?other, ?nonsync, ?header⟩
  case login => exact decode_of_frame (len := 0x05) (pid := 0x01) (tail := [_, _, _, _, _, _]) rfl (by decide)
  case timeCal => exact decode_of_frame (len := 0x05) (pid := 0x8A) (tail := [_, _, _, _, _, _]) rfl (by decide)
  case other => exact decode_of_frame (len := 0x05) (pid := 0x99) (tail := [_, _, _, _, _, _]) rfl (by decide)
  case nonsync => exact decode_of_mismatch (by decide) (by decide)
  case header =>
    have hword : streamOfWord 32 0x78780013 = frameBytes 0x00 0x13 [0x00] ++ [0x00] := by decide
    rw [decodeTableWord, if_neg (by decide), hword, decode_of_frame rfl (by decide)]
    rfl

/-! ### Packed BCD -/

/-- The tens digit is the high nibble and the units digit the low one (42_response.md R141). -/
theorem bcd_toNat {v : Nat} (h : v ≤ 99) : (bcd v).toNat = 16 * (v / 10) + v % 10 := by
  have htens : (v / 10) % 256 = v / 10 := by omega
  have hunits : (v % 10) % 256 = v % 10 := by omega
  have hshift : (v / 10 * 2 ^ 4) % 256 = v / 10 * 2 ^ 4 := by omega
  simp only [bcd, BitVec.toNat_or, BitVec.toNat_shiftLeft, BitVec.toNat_ofNat, Nat.reducePow, htens, hunits,
    Nat.shiftLeft_eq] at hshift ⊢
  rw [hshift, Nat.mul_comm]
  exact (Nat.two_pow_add_eq_or_of_lt (i := 4) (by omega) _).symm

/-- The digits of a packed byte are its quotient and remainder by 16. -/
theorem unbcd_eq (b : Byte) :
    unbcd b = if b.toNat / 16 ≤ 9 ∧ b.toNat % 16 ≤ 9 then some (b.toNat / 16 * 10 + b.toNat % 16) else none := by
  have hhigh : (b >>> 4).toNat = b.toNat / 16 := by
    rw [BitVec.toNat_ushiftRight, Nat.shiftRight_eq_div_pow]
  have hlow : (b &&& 0x0F).toNat = b.toNat % 16 := Nat.and_two_pow_sub_one_eq_mod b.toNat 4
  simp only [unbcd, hhigh, hlow]

theorem unbcd_bcd {v : Nat} (h : v ≤ 99) : unbcd (bcd v) = some v := by
  have hhigh : (16 * (v / 10) + v % 10) / 16 = v / 10 := by omega
  have hlow : (16 * (v / 10) + v % 10) % 16 = v % 10 := by omega
  rw [unbcd_eq, bcd_toNat h, hhigh, hlow, if_pos (by omega)]
  congr 1
  omega

theorem Now.inRange_iff (t : Now) :
    t.inRange = true ↔ t.yy ≤ 99 ∧ t.mo ≤ 99 ∧ t.dd ≤ 99 ∧ t.hh ≤ 99 ∧ t.mi ≤ 99 ∧ t.ss ≤ 99 := by
  simp only [Now.inRange, Bool.and_eq_true, decide_eq_true_eq, and_assoc]

/-! ### The response forms -/

theorem decodeResponse_ackBytes {pid : Byte} (hp : pid ∈ ackSet) (s0 s1 : Byte) :
    decodeResponse (ackBytes pid s0 s1) = some (.ack pid s0 s1) :=
  if_pos ⟨rfl, rfl, rfl, hp, rfl, rfl⟩

theorem decodeResponse_timecalBytes {now : Now} (hr : now.inRange = true) (s0 s1 : Byte) :
    decodeResponse (timecalBytes now.bcdBytes s0 s1) = some (.timecalRsp s0 s1 now) := by
  obtain ⟨hyy, hmo, hdd, hhh, hmi, hss⟩ := (Now.inRange_iff now).1 hr
  simp only [Now.bcdBytes, timecalBytes, timecalCovered, sealResponse, List.cons_append, List.nil_append,
    decodeResponse, and_self, if_true, unbcd_bcd, hyy, hmo, hdd, hhh, hmi, hss]

/-- What has an encoding and is no stream form is one of the two response forms (R68, R69). -/
theorem responseForm_cases {i : Instr} {own : Bytes} (hs : i.isStreamForm = false) (he : encode i = some own) :
    (∃ pid s0 s1, i = .ack pid s0 s1 ∧ own = ackBytes pid s0 s1) ∨
    ∃ s0 s1 now, i = .timecalRsp s0 s1 now ∧ own = timecalBytes now.bcdBytes s0 s1 := by
  cases i
  case ack pid s0 s1 => exact .inl ⟨pid, s0, s1, rfl, (Option.some.inj he).symm⟩
  case timecalRsp s0 s1 now => exact .inr ⟨s0, s1, now, rfl, (Option.some.inj he).symm⟩
  all_goals simp [Instr.isStreamForm, encode] at hs he

/-- Settles O3: of the acknowledgment the id is one of `ACK_SET`, and of the time every field is a two-digit
number, which packed BCD keeps. -/
theorem responseFormsDecodeTheirEncoding : Obligations.ResponseFormsDecodeTheirEncoding := by
  intro i own hw hs he
  rcases responseForm_cases hs he with ⟨pid, s0, s1, rfl, rfl⟩ | ⟨s0, s1, now, rfl, rfl⟩
  · exact decodeResponse_ackBytes (List.contains_iff_mem.1 hw) s0 s1
  · exact decodeResponse_timecalBytes hw s0 s1

end Sys2Proof
end

section
/-! PROOF. `FEED` realises the pass (spec/40_framer.md R90 to R98, spec/20_memory.md R50): the pass as a
relation is deterministic, each iteration of the loop is one of its rules and keeps the invariant, and an
induction on the iterations composes them. -/

namespace Sys2Proof.Machine

/-! ### The pass as a relation: which rule applies is told by the bytes -/

theorem startsSync_frame_append {f : Bytes} (hf : isFrame f = true) (rest : Bytes) : startsSync (f ++ rest) := by
  obtain ⟨len, pid, tail, rfl, -⟩ := (isFrame_iff f).1 hf
  exact ⟨rfl, rfl⟩

theorem isStalled_frame_append {f rest : Bytes} (hf : isFrame f = true) (h6 : 6 ≤ (f ++ rest).length) :
    isStalled (f ++ rest) = false := by
  obtain ⟨len, pid, tail, rfl, ht⟩ := (isFrame_iff f).1 hf
  simp only [isStalled, decode_of_frame ht h6]

theorem isStalled_of_not_startsSync {bs : Bytes} (h6 : 6 ≤ bs.length) (hm : ¬ startsSync bs) :
    isStalled bs = false := by
  rw [← Bool.not_eq_true, isStalled_iff]
  rintro (h | ⟨len, more, rfl, -, -⟩)
  · omega
  · exact hm ⟨rfl, rfl⟩

/-- A frame's length byte says where it ends, so a frame at the head of the bytes is the only one there. -/
theorem frame_append_inj {f g rest left : Bytes} (hf : isFrame f = true) (hg : isFrame g = true)
    (h : f ++ rest = g ++ left) : f = g ∧ rest = left := by
  obtain ⟨len, pid, tail, rfl, ht⟩ := (isFrame_iff f).1 hf
  obtain ⟨len', pid', tail', rfl, ht'⟩ := (isFrame_iff g).1 hg
  simp only [frameBytes, List.cons_append, List.cons.injEq, true_and] at h
  obtain ⟨rfl, rfl, h⟩ := h
  obtain ⟨rfl, rfl⟩ := List.append_inj h (ht.trans ht'.symm)
  exact ⟨rfl, rfl⟩

theorem Pass.of_isStalled {bs : Bytes} (h : isStalled bs = true) : Pass bs [] bs := by
  rcases (isStalled_iff bs).1 h with h6 | ⟨len, more, rfl, h6, hl⟩
  · exact .short h6
  · exact .wait h6 hl

theorem Pass.eq_of_isStalled {bs kept : Bytes} {frames : List Bytes} (hp : Pass bs frames kept)
    (h : isStalled bs = true) : frames = [] ∧ kept = bs := by
  cases hp with
  | short => exact ⟨rfl, rfl⟩
  | wait => exact ⟨rfl, rfl⟩
  | skip h6 hm => simp [isStalled_of_not_startsSync h6 hm] at h
  | emit h6 hf => simp [isStalled_frame_append hf h6] at h

theorem Pass.tail_of_not_startsSync {a : Byte} {bs kept : Bytes} {frames : List Bytes}
    (hp : Pass (a :: bs) frames kept) (h6 : 6 ≤ (a :: bs).length) (hm : ¬ startsSync (a :: bs)) :
    Pass bs frames kept := by
  generalize hw : a :: bs = w at hp h6 hm
  cases hp with
  | short h => omega
  | wait => exact absurd ⟨rfl, rfl⟩ hm
  | skip _ _ h =>
    obtain ⟨rfl, rfl⟩ := List.cons.inj hw
    exact h
  | emit _ hf => exact absurd (startsSync_frame_append hf _) hm

theorem Pass.rest_of_frame {f rest kept : Bytes} {frames : List Bytes} (hp : Pass (f ++ rest) frames kept)
    (h6 : 6 ≤ (f ++ rest).length) (hf : isFrame f = true) :
    ∃ others, frames = f :: others ∧ Pass rest others kept := by
  have hsync := startsSync_frame_append hf rest
  have hmoves := isStalled_frame_append hf h6
  generalize hw : f ++ rest = w at hp h6 hsync hmoves
  cases hp with
  | short h => omega
  | wait h hl => simp [(isStalled_iff _).2 (.inr ⟨_, _, rfl, h, hl⟩)] at hmoves
  | skip _ hm => exact absurd hsync hm
  | emit _ hg h =>
    obtain ⟨rfl, rfl⟩ := frame_append_inj hf hg hw
    exact ⟨_, rfl, h⟩

/-- The pass is deterministic: the bytes to scan fix the frames and the bytes retained. -/
theorem Pass.unique {bs kept kept' : Bytes} {frames frames' : List Bytes} (hp : Pass bs frames kept)
    (hq : Pass bs frames' kept') : frames' = frames ∧ kept' = kept := by
  induction hp generalizing frames' with
  | short h6 => exact hq.eq_of_isStalled ((isStalled_iff _).2 (.inl h6))
  | wait h6 hl => exact hq.eq_of_isStalled ((isStalled_iff _).2 (.inr ⟨_, _, rfl, h6, hl⟩))
  | skip h6 hm _ ih => exact ih (hq.tail_of_not_startsSync h6 hm)
  | emit h6 hf _ ih =>
    obtain ⟨others, rfl, hrest⟩ := hq.rest_of_frame h6 hf
    obtain ⟨rfl, rfl⟩ := ih hrest
    exact ⟨rfl, rfl⟩

/-! ### What one iteration does -/

/-- An iteration from `s` to `t` has emitted the frame `f` at `OFF`, followed by its answer, and stands at the
head of the loop before the bytes `rest` (40_framer.md R97, 42_response.md R160). -/
structure EmitsFrame (s t : State) (f rest : Bytes) : Prop where
  window : s.window = f ++ rest
  enough : 6 ≤ (f ++ rest).length
  frame : isFrame f = true
  answered : ∃ r, Answers f r ∧ t.trace = s.trace ++ .frm f :: (r.map Event.rsp).toList
  buf : t.buf = s.buf
  bufLen : t.bufLen = s.bufLen
  off : t.off = s.off + f.length
  control : t.ctl = .scan
  pending : t.pending = s.pending
  result : t.result = s.result
  rspSize : s.rsp.length = 16 → t.rsp.length = 16
  rspLength : s.rspLen = 0 ∨ s.rspLen = 10 ∨ s.rspLen = 16 → t.rspLen = 0 ∨ t.rspLen = 10 ∨ t.rspLen = 16

theorem emitsFrame_processFrame {s : State} {len pid : Byte} {tail rest : Bytes}
    (hw : s.window = frameBytes len pid tail ++ rest) (h6 : 6 ≤ s.window.length)
    (ht : tail.length = len.toNat + 1) :
    ∃ t, processFrame (frameBytes len pid tail) (s.afterEmit len pid tail) = .next t ∧
      EmitsFrame s t (frameBytes len pid tail) rest := by
  obtain ⟨t, hp, hbuf, hbufLen, hoff, -, hctl, hpending, hresult, hrspSize, hrspLength, r, hr, htrace⟩ :=
    processFrame_next len pid tail (s.afterEmit len pid tail)
  have hlen : (frameBytes len pid tail).length = frameLength len := by
    rw [frameBytes_length, frameLength_eq, ht]
  refine ⟨t, hp, hw, hw ▸ h6, (isFrame_iff _).2 ⟨len, pid, tail, rfl, ht⟩, ⟨r, hr, ?_⟩, hbuf, hbufLen, ?_, hctl,
    hpending, hresult, hrspSize, hrspLength⟩
  · rw [htrace, State.afterEmit_trace, List.append_assoc, List.singleton_append]
  · rw [hoff, State.afterEmit_off, hlen]

/-- An iteration stalls before `F.COMPACT` with only `FL` written, skips one byte, or emits a frame. -/
theorem passIteration_cases {s : State} (hb : BufOk s) (ho : s.off ≤ s.bufLen) :
    (∃ fl, passIteration s = .next ({ s with fl := fl }.goto .compact) ∧ isStalled s.window = true ∧
      (6 ≤ s.avail → flOf fl s.window)) ∨
    (∃ a more, passIteration s = .next ({ s with off := s.off + 1 }.goto .scan) ∧ s.window = a :: more ∧
      6 ≤ s.window.length ∧ ¬ startsSync s.window) ∨
    ∃ f rest t, passIteration s = .next t ∧ EmitsFrame s t f rest := by
  rcases iteration_cases s hb ho with
    ⟨h6, hit⟩ | ⟨a, b, more, hw, h6, hm, hit⟩ | ⟨len, more, hw, h6, hl, hit⟩ | ⟨len, pid, tail, rest, hw, h6, ht, hit⟩
  case inl =>
    refine .inl ⟨s.fl, hit, (isStalled_iff _).2 (.inl h6), fun h => ?_⟩
    rw [← window_length hb] at h
    omega
  case inr.inl =>
    exact .inr (.inl ⟨a, b :: more, hit, hw, h6, by simpa [hw, startsSync] using hm⟩)
  case inr.inr.inl =>
    refine .inl ⟨frameLength9 len, hit, (isStalled_iff _).2 (.inr ⟨len, more, hw, h6, hl⟩), fun _ => ?_⟩
    rw [hw]
    rfl
  case inr.inr.inr =>
    obtain ⟨t, hp, hemits⟩ := emitsFrame_processFrame hw h6 ht
    exact .inr (.inr ⟨_, rest, t, hit.trans hp, hemits⟩)

/-! ### The bytes left, and the invariant, after each move -/

theorem window_of_skip {s t : State} {a : Byte} {more : Bytes} (hw : s.window = a :: more) (hbuf : t.buf = s.buf)
    (hoff : t.off = s.off + 1) : t.window = more := by
  rw [State.window, State.bytes, hbuf, hoff, ← List.drop_drop]
  change s.window.drop 1 = more
  rw [hw, List.drop_succ_cons, List.drop_zero]

theorem EmitsFrame.window_next {s t : State} {f rest : Bytes} (h : EmitsFrame s t f rest) : t.window = rest := by
  rw [State.window, State.bytes, h.buf, h.off, ← List.drop_drop]
  change s.window.drop f.length = rest
  rw [h.window, List.drop_left]

theorem StateInv.goto_compact {s : State} (h : StateInv s) {fl : Word9} (hst : isStalled s.window = true)
    (hfl : 6 ≤ s.avail → flOf fl s.window) : StateInv ({ s with fl := fl }.goto .compact) :=
  ⟨h.buffer, h.offset, h.rspSize, h.rspLength, ⟨hst, hfl⟩, h.platform⟩

theorem StateInv.skip {s : State} (h : StateInv s) (ho : s.off < s.bufLen) :
    StateInv ({ s with off := s.off + 1 }.goto .scan) :=
  ⟨h.buffer, ho, h.rspSize, h.rspLength, trivial, h.platform⟩

theorem EmitsFrame.off_le {s t : State} {f rest : Bytes} (h : EmitsFrame s t f rest) (hb : BufOk s)
    (ho : s.off ≤ s.bufLen) : t.off ≤ t.bufLen := by
  have hlen := window_length hb
  rw [h.window, List.length_append, State.avail] at hlen
  rw [h.off, h.bufLen]
  omega

theorem EmitsFrame.stateInv {s t : State} {f rest : Bytes} (h : EmitsFrame s t f rest) (hs : StateInv s) :
    StateInv t where
  buffer := bufOk_of_eq hs.buffer h.buf h.bufLen
  offset := h.off_le hs.buffer hs.offset
  rspSize := h.rspSize hs.rspSize
  rspLength := h.rspLength hs.rspLength
  control := by simp only [CtlOk, h.control]
  platform := by rw [h.pending]; exact hs.platform

theorem CtlOk.of_compact {s : State} (h : CtlOk s) (hc : s.ctl = .compact) :
    isStalled s.window = true ∧ (6 ≤ s.avail → flOf s.fl s.window) := by
  simpa only [CtlOk, hc] using h

/-- `F.COMPACT` after the loop leaves the block at rest (R98, 10_state.md R25). -/
theorem StateInv.compact_atRest {s : State} (h : StateInv s) (hc : s.ctl = .compact) :
    AtRest (s.compact.goto .rest) := by
  obtain ⟨hst, hfl⟩ := h.control.of_compact hc
  have hbytes : (s.compact.goto .rest).bytes = s.window := compact_bytes h.buffer
  refine ⟨⟨compact_bufOk h.buffer, Nat.zero_le _, h.rspSize, h.rspLength, ⟨rfl, ?_, ?_⟩, h.platform⟩, rfl⟩
  · rw [hbytes]
    exact hst
  · rw [hbytes]
    exact hfl

/-- The entry of a `FEED` keeps the invariant, with everything held still to be scanned (R90, R91). -/
theorem StateInv.enterFeed {s : State} (h : StateInv s) (c : Bytes) : StateInv (s.enterFeed c) :=
  ⟨(enterFeed_atLoopHead h.buffer c).buffer, Nat.zero_le _, h.rspSize, h.rspLength, trivial, h.platform⟩

theorem enterFeed_window {s : State} (h : BufOk s) (c : Bytes) : (s.enterFeed c).window = s.bytes ++ c :=
  append_bytes h c

/-! ### The loop -/

/-- The iterations from `s` to `t` have emitted these frames of the pass, each followed by its answer, and have
touched neither the platform's queue nor the value returned. -/
structure PassRun (s t : State) (frames : List Bytes) (events : List Event) : Prop where
  scanned : Pass s.window frames t.window
  paired : Paired frames events
  trace : t.trace = s.trace ++ events
  pending : t.pending = s.pending
  result : t.result = s.result

/-- A stall ends the pass at once (R92, R96). -/
theorem PassRun.stall {s : State} (hst : isStalled s.window = true) (fl : Word9) :
    PassRun s ({ s with fl := fl }.goto .compact) [] [] :=
  ⟨.of_isStalled hst, .nil, (List.append_nil _).symm, rfl, rfl⟩

/-- A skip before the rest of the pass (R94). -/
theorem PassRun.skip {s t : State} {a : Byte} {more : Bytes} {frames : List Bytes} {events : List Event}
    (hw : s.window = a :: more) (h6 : 6 ≤ s.window.length) (hm : ¬ startsSync s.window)
    (h : PassRun ({ s with off := s.off + 1 }.goto .scan) t frames events) : PassRun s t frames events where
  scanned := by
    have hnext : State.window ({ s with off := s.off + 1 }.goto .scan) = more := window_of_skip hw rfl rfl
    have hscan := h.scanned
    rw [hnext] at hscan
    rw [hw] at h6 hm ⊢
    exact .skip h6 hm hscan
  paired := h.paired
  trace := h.trace
  pending := h.pending
  result := h.result

/-- A frame emitted and answered before the rest of the pass (R97). -/
theorem PassRun.emit {s t u : State} {f rest : Bytes} {frames : List Bytes} {events : List Event}
    (hemits : EmitsFrame s t f rest) (h : PassRun t u frames events) :
    ∃ events', PassRun s u (f :: frames) events' := by
  obtain ⟨r, hr, htrace⟩ := hemits.answered
  have hscan := h.scanned
  rw [hemits.window_next] at hscan
  refine ⟨.frm f :: ((r.map Event.rsp).toList ++ events), ?_, .frame hr h.paired, ?_, ?_, ?_⟩
  · rw [hemits.window]
    exact .emit hemits.enough hemits.frame hscan
  · rw [h.trace, htrace, List.append_assoc, List.cons_append]
  · rw [h.pending, hemits.pending]
  · rw [h.result, hemits.result]

theorem passLoop_of_ends {s t : State} (n : Nat) (hit : passIteration s = .next t) (hc : t.ctl = .compact) :
    passLoop (n + 1) s = .next t := by
  rw [passLoop, hit, andThen_next, if_pos hc]

theorem passLoop_of_continues {s t : State} (n : Nat) (hit : passIteration s = .next t) (hc : t.ctl = .scan) :
    passLoop (n + 1) s = passLoop n t := by
  rw [passLoop, hit, andThen_next, if_neg (by simp [hc])]

/-- Each iteration that does not end the loop takes at least one byte, so with more iterations allowed than
bytes left the loop runs the whole pass (R102). -/
theorem passLoop_realises (n : Nat) {s : State} (hs : StateInv s) (hn : s.avail < n) :
    ∃ t frames events, passLoop n s = .next t ∧ StateInv t ∧ t.ctl = .compact ∧ PassRun s t frames events := by
  induction n generalizing s with
  | zero => exact absurd hn (Nat.not_lt_zero _)
  | succ n ih =>
    have hlen := window_length hs.buffer
    rcases passIteration_cases hs.buffer hs.offset with
      ⟨fl, hit, hst, hfl⟩ | ⟨a, more, hit, hw, h6, hm⟩ | ⟨f, rest, t, hit, hemits⟩
    case inl =>
      exact ⟨_, [], [], passLoop_of_ends n hit rfl, hs.goto_compact hst hfl, rfl, .stall hst fl⟩
    case inr.inl =>
      have havail : s.avail = s.bufLen - s.off := rfl
      have hlt : State.avail ({ s with off := s.off + 1 }.goto .scan) < n := by
        simp only [State.avail, State.goto_off, State.goto_bufLen]
        omega
      obtain ⟨u, frames, events, hloop, hu, hc, hrun⟩ := ih (hs.skip (by omega)) hlt
      exact ⟨u, frames, events, (passLoop_of_continues n hit rfl).trans hloop, hu, hc, hrun.skip hw h6 hm⟩
    case inr.inr =>
      have hlt : t.avail < s.avail := by
        have hf := isFrame_length hemits.frame
        rw [hemits.window, List.length_append] at hlen
        simp only [State.avail, hemits.off, hemits.bufLen] at hlen ⊢
        omega
      obtain ⟨u, frames, events, hloop, hu, hc, hrun⟩ := ih (hemits.stateInv hs) (by omega)
      obtain ⟨events', hrun'⟩ := hrun.emit hemits
      exact ⟨u, f :: frames, events', (passLoop_of_continues n hit hemits.control).trans hloop, hu, hc, hrun'⟩

/-- Settles O16: the entry leaves the bytes held and the chunk to be scanned, the loop realises the pass on them,
and `F.COMPACT` retains what the pass keeps. -/
theorem feedRealisesThePass : Obligations.FeedRealisesThePass := by
  rintro s c ⟨hinv, -⟩
  have henough : (s.enterFeed c).avail < (s.enterFeed c).bufLen + 1 := by rw [State.avail]; omega
  obtain ⟨t, frames, events, hloop, ht, hc, hrun⟩ := passLoop_realises _ (hinv.enterFeed c) henough
  have hpass : Pass (s.bytes ++ c) frames (t.compact.goto .rest).bytes := by
    rw [← enterFeed_window hinv.buffer, show (t.compact.goto .rest).bytes = t.window from compact_bytes ht.buffer]
    exact hrun.scanned
  refine ⟨t.compact.goto .rest, frames, events, ?_, ht.compact_atRest hc, hpass, fun _ _ => hpass.unique, hrun.trace,
    hrun.paired, hrun.pending, hrun.result⟩
  rw [exec, execFeed, hloop, andThen_next]

end Sys2Proof.Machine
end

section
/-! PROOF. The decoder's stalls, the steps of `FEED` one by one, and the order in which a step of the machine
takes them (spec/40_framer.md R91 to R98, R108). -/

namespace Sys2Proof.Machine

/-! ### The decoder and the iteration -/

/-- Settles O4: of the four cases of R93 the first and the third are the rejections. -/
theorem decoderRejectsExactlyTheStalls : Obligations.DecoderRejectsExactlyTheStalls := by
  intro bs
  rcases decode_cases bs with ⟨h6, hd⟩ | ⟨a, b, more, rfl, h6, hm, hd⟩ | ⟨len, more, rfl, h6, hl, hd⟩ |
    ⟨len, pid, tail, rest, rfl, h6, ht, hd⟩
  case inl =>
    refine ⟨by simp [hd, h6], fun fl => ?_⟩
    simp only [hd, Decoded.reject.injEq, reduceCtorEq, false_iff]
    rintro ⟨_, _, -, h, -⟩
    omega
  case inr.inl =>
    refine ⟨by simpa [hd] using h6, fun fl => ?_⟩
    simp only [hd, reduceCtorEq, false_iff]
    rintro ⟨_, _, he, -⟩
    cases he
    exact hm ⟨rfl, rfl⟩
  case inr.inr.inl =>
    refine ⟨by simpa [hd] using h6, fun fl => ?_⟩
    simp only [hd, Decoded.reject.injEq, Reject.incomplete.injEq]
    constructor
    · rintro rfl
      exact ⟨len, more, rfl, h6, hl, rfl⟩
    · rintro ⟨_, _, he, -, -, rfl⟩
      cases he
      rfl
  case inr.inr.inr =>
    refine ⟨by simpa [hd] using h6, fun fl => ?_⟩
    simp only [hd, reduceCtorEq, false_iff]
    rintro ⟨_, _, he, -, hl, -⟩
    cases he
    simp only [List.length_append, frameBytes_length, ht] at hl
    omega

theorem exists_reject_of_isStalled {bs : Bytes} (h : isStalled bs = true) : ∃ r, decode bs = .reject r := by
  unfold isStalled at h
  cases hd : decode bs with
  | reject r => exact ⟨r, rfl⟩
  | instr i left => simp [hd] at h

/-- Settles O25: the decoder answers an instruction in two of the four cases of R93, and there the iteration is
the skip, or the frame with its `PROCESS`. -/
theorem instructionsAreIterationsOfThePass : Obligations.InstructionsAreIterationsOfThePass := by
  intro s i left hs _ hd
  rcases iteration_cases s hs.buffer hs.offset with
    ⟨h6, -⟩ | ⟨a, b, more, hw, h6, hm, hit⟩ | ⟨len, more, hw, h6, hl, -⟩ | ⟨len, pid, tail, rest, hw, h6, ht, hit⟩
  case inl => cases (decode_of_short h6).symm.trans hd
  case inr.inl =>
    rw [hw] at h6 hd
    obtain ⟨rfl, -⟩ := Decoded.instr.inj ((decode_of_mismatch h6 hm).symm.trans hd)
    exact hit
  case inr.inr.inl =>
    rw [hw] at h6 hl hd
    cases (decode_of_incomplete h6 hl).symm.trans hd
  case inr.inr.inr =>
    rw [hw] at h6 hd
    obtain ⟨rfl, -⟩ := Decoded.instr.inj ((decode_of_frame ht h6).symm.trans hd)
    rw [hit, exec_frameInstr]

/-! ### The steps of `FEED` -/

theorem read_buf {s : State} (h : BufOk s) (a : Nat) : Memory.read s.buf a = s.bytes[a]? := by
  rw [h.1, Memory.read_ofBytes]

theorem read_buf_above {s : State} (h : BufOk s) {a : Nat} (ha : s.bufLen ≤ a) : Memory.read s.buf a = none := by
  rw [read_buf h, List.getElem?_eq_none (h.2 ▸ ha)]

theorem withByte_of_read {s : State} {a : Nat} {b : Byte} (h : Memory.read s.buf a = some b) (k : Byte → Outcome) :
    withByte s a k = k b := by
  simp only [withByte, h]

/-- Settles O26: the store is a run of writes at `BUF_LEN`, above every byte held. -/
theorem appendStoresTheChunkInOrder : Obligations.AppendStoresTheChunkInOrder := by
  intro s chunk hb
  refine ⟨(s.append chunk).buf, rfl, fun a ha => ?_, fun i hi => ?_, fun a ha => ?_⟩
  · exact Memory.read_writeRun_below chunk s.buf ha
  · exact (Memory.read_writeRun_inside chunk s.buf s.bufLen i hi).symm
  · rw [State.append_buf, Memory.read_writeRun_above chunk s.buf ha, read_buf_above hb (by omega)]

/-- Settles O27: the test is `isShort`. -/
theorem shortTestStopsBelowSixBytes : Obligations.ShortTestStopsBelowSixBytes := by
  intro s
  simp only [exec, execFShort, isShort_iff]
  rfl

/-- Settles O28: the two bytes read decide, by `isMismatch`. -/
theorem skipAdvancesByExactlyOne : Obligations.SkipAdvancesByExactlyOne := by
  intro s a b _ ha hb
  simp only [exec, execFSkip, withByte_of_read ha, withByte_of_read hb]
  refine ⟨fun hne => ?_, fun heq => ?_⟩
  · rw [if_pos ((isMismatch_iff a b).2 hne)]
    rfl
  · rw [if_neg fun h => (isMismatch_iff a b).1 h heq]
    rfl

/-- Settles O30: the test is `isIncomplete`. -/
theorem waitTestStopsBelowTheFrameLength : Obligations.WaitTestStopsBelowTheFrameLength := by
  intro s
  simp only [exec, execFWait, isIncomplete_iff]
  rfl

/-- Settles O31: the run read is a slice of the bytes held. -/
theorem emitSlicesTheFrame : Obligations.EmitSlicesTheFrame := by
  intro s hb hfit
  have hlen : ((s.bytes.drop s.off).take s.fl.toNat).length = s.fl.toNat := by
    rw [List.length_take, List.length_drop, ← hb.2]
    omega
  refine ⟨_, hlen, fun i hi => ?_, ?_⟩
  · rw [read_buf hb, List.getElem?_take_of_lt (hlen ▸ hi), List.getElem?_drop]
  · rw [exec, execFEmit, withRun_eq hb hfit]
    rfl

/-- Settles O32: the buffer after the move holds the bytes from `OFF` on. -/
theorem compactKeepsTheBytesFromTheOffset : Obligations.CompactKeepsTheBytesFromTheOffset := by
  intro s hb _
  refine ⟨s.compact.buf, rfl, fun a => ?_⟩
  rw [compact_buf hb, Memory.read_ofBytes, window_getElem?, read_buf hb]

/-- Settles O39: it is what the instruction does. -/
theorem nonsyncSkipsOneByte : Obligations.NonsyncSkipsOneByte := fun _ _ _ => rfl

/-! ### The step of the machine -/

theorem fedBytes_of_isStreamForm {i : Instr} (h : i.isStreamForm = true) : fedBytes i = encode i := by
  unfold fedBytes
  split
  · cases h
  · exact if_pos h

theorem fedBytes_of_operation {i : Instr} (h : i.isStreamForm = false) (hf : ∀ c, i ≠ .feed c) :
    fedBytes i = none := by
  unfold fedBytes
  split
  · exact absurd rfl (hf _)
  · exact if_neg (by simp [h])

/-- Settles O8: what the head of the queue feeds decides between the entry of a `FEED` and an operation. -/
theorem stepAtRestTakesThePlatformsNext : Obligations.StepAtRestTakesThePlatformsNext := by
  intro s hc
  refine ⟨fun hp => ?_, fun c ops hp => step_of_feed hc hp, fun i own ops hp hs he => ?_, fun i ops hp hs hf => ?_⟩
  · simp only [step, hc, stepRest, hp]
  · simp only [step, hc, stepRest, hp, fedBytes_of_isStreamForm hs, he]
  · simp only [step, hc, stepRest, hp, fedBytes_of_operation hs hf]

/-- Settles O9: at the head of the loop the fetch meets the stall; every later position has its own step. -/
theorem stepInsideAPassFollowsThePseudocode : Obligations.StepInsideAPassFollowsThePseudocode := by
  intro s
  refine ⟨fun hb ho hc hst => ?stall, ?_, ?_, ?_, ?_, fun f hc => ?process, ?_⟩
  case stall =>
    obtain ⟨r, hd⟩ := exists_reject_of_isStalled hst
    exact AtLoopHead.step_of_reject ⟨hb, ho, hc⟩ hd
  case process =>
    simp only [step, hc]
    rfl
  all_goals
    intro hc
    simp only [step, hc]

/-! ### The 5-byte frame -/

theorem bytes_eq_nil {s : State} (hb : BufOk s) (h : s.bufLen = 0) : s.bytes = [] :=
  List.length_eq_zero_iff.1 (hb.2.symm.trans h)

theorem Paired.eq_nil {events : List Event} (h : Paired [] events) : events = [] := by
  cases h
  rfl

/-- The events of a single frame without a serial: the frame and nothing else (R101, 60_exceptions.md R206). -/
theorem Paired.eq_singleton_of_no_serial {f : Bytes} {events : List Event} (h : Paired [f] events)
    (hs : frameSerial f = none) : events = [.frm f] := by
  cases h with
  | frame hr hrest =>
    rw [Answers, hs] at hr
    rw [hr, hrest.eq_nil]
    rfl

/-- A `FEED` that completes nothing retains what it scans and emits nothing. -/
theorem feed_of_isStalled {s : State} {c : Bytes} (h : AtRest s) (hst : isStalled (s.bytes ++ c) = true) :
    ∃ t, exec (.feed c) s = .next t ∧ AtRest t ∧ t.trace = s.trace ∧ t.bytes = s.bytes ++ c := by
  obtain ⟨t, frames, events, hfeed, ht, hpass, -, htrace, hpaired, -⟩ := feedRealisesThePass s c h
  obtain ⟨rfl, hkept⟩ := hpass.eq_of_isStalled hst
  exact ⟨t, hfeed, ht, by rw [htrace, hpaired.eq_nil, List.append_nil], hkept⟩

/-- Settles O22: five bytes are too few for the pass; a sixth makes the frame complete, and what is left is too
few again. -/
theorem fiveByteFrameWaitsForOneMore : Obligations.FiveByteFrameWaitsForOneMore := by
  intro s pid x b hs hempty
  have hnil : s.bytes = [] := bytes_eq_nil hs.1.buffer hempty
  obtain ⟨t, hfeed, ht, htrace, hbytes⟩ :=
    feed_of_isStalled (c := [0x78, 0x78, 0x00, pid, x]) hs ((isStalled_iff _).2 (.inl (by simp [hnil])))
  rw [hnil, List.nil_append] at hbytes
  obtain ⟨u, frames, events, hfeed', -, hpass, -, htrace', hpaired, -⟩ := feedRealisesThePass t [b] ht
  rw [hbytes] at hpass
  obtain ⟨others, rfl, hrest⟩ := hpass.rest_of_frame (by simp) rfl
  obtain ⟨rfl, hkept⟩ := hrest.eq_of_isStalled ((isStalled_iff _).2 (.inl (by simp)))
  exact ⟨t, u, hfeed, htrace, hbytes, hfeed', by rw [htrace', htrace, hpaired.eq_singleton_of_no_serial rfl], hkept⟩

end Sys2Proof.Machine
end

section
/-! PROOF. The serial of a frame, `EXTRACT`, and the frame kinds (spec/40_framer.md R100, R101;
spec/42_response.md R143 to R159). -/

namespace Sys2Proof.Machine

/-! ### The serial -/

theorem frameSerial_eq_none_iff (f : Bytes) : frameSerial f = none ↔ f.length < 6 := by
  unfold frameSerial
  split
  case isTrue h => simpa [serialBack] using h
  case isFalse h => simpa [serialBack] using h

theorem frameSerial_eq_some_iff (f : Bytes) (a b : Byte) :
    frameSerial f = some (a, b) ↔ 6 ≤ f.length ∧ f[f.length - 6]? = some a ∧ f[f.length - 5]? = some b := by
  unfold frameSerial
  split
  case isTrue h =>
    have h6 : 6 ≤ f.length := h
    have hsucc : f.length - 6 + 1 = f.length - 5 := by omega
    have h0 : f.length - 6 < f.length := by omega
    have h1 : f.length - 5 < f.length := by omega
    simp only [serialBack, hsucc, List.getD_eq_getElem?_getD, List.getElem?_eq_getElem h0,
      List.getElem?_eq_getElem h1, Option.getD_some, Option.some.injEq, Prod.mk.injEq, h6, true_and]
  case isFalse h =>
    have h6 : ¬ 6 ≤ f.length := h
    simp only [reduceCtorEq, h6, false_and]

/-- In a frame with `len >= 1` the serial stands at the indices `len - 1` and `len` (30_encoding.md R66). -/
theorem frameSerial_frameBytes {len pid s0 s1 : Byte} {tail : Bytes} (ht : tail.length = len.toNat + 1)
    (h1 : 1 ≤ len.toNat) (hs0 : (frameBytes len pid tail)[len.toNat - 1]? = some s0)
    (hs1 : (frameBytes len pid tail)[len.toNat]? = some s1) :
    frameSerial (frameBytes len pid tail) = some (s0, s1) := by
  have hlen : (frameBytes len pid tail).length = len.toNat + 5 := by rw [frameBytes_length, ht]
  have hfirst : len.toNat + 5 - 6 = len.toNat - 1 := by omega
  rw [frameSerial_eq_some_iff, hlen, hfirst, Nat.add_sub_cancel]
  exact ⟨by omega, hs0, hs1⟩

/-- Settles O44: a frame of 5 bytes has no serial, and a longer one has it at `L - 6`. -/
theorem extractTakesIdAndSerial : Obligations.ExtractTakesIdAndSerial := by
  intro f s hf
  obtain ⟨len, pid, tail, rfl, -⟩ := (isFrame_iff f).1 hf
  refine ⟨pid, rfl, fun h5 => ?_, fun h6 => ?_⟩
  · have hnone : frameSerial (frameBytes len pid tail) = none := (frameSerial_eq_none_iff _).2 (by omega)
    rw [exec, execExtract, extractFields_frameBytes, State.setFields_of_none s pid hnone]
  · cases hser : frameSerial (frameBytes len pid tail) with
    | none =>
      have := (frameSerial_eq_none_iff _).1 hser
      omega
    | some ab =>
      obtain ⟨-, ha, hb⟩ := (frameSerial_eq_some_iff _ ab.1 ab.2).1 hser
      refine ⟨ab.1, ab.2, ha, hb, ?_⟩
      rw [exec, execExtract, extractFields_frameBytes, State.setFields_of_serial s pid hser]

/-! ### The frame kinds -/

theorem exec_of_mem_ackKinds {k : Byte × (Byte → Bytes → Instr)} (hk : k ∈ ackKinds) (len : Byte) (tail : Bytes)
    (s : State) : exec (k.2 len tail) s = .next ((s.takeFrame len k.1 tail).answerAck k.1) := by
  simp only [ackKinds, List.mem_cons, List.not_mem_nil, or_false] at hk
  rcases hk with rfl | rfl | rfl | rfl | rfl | rfl | rfl | rfl | rfl | rfl
  all_goals rfl

theorem exec_of_mem_silentKinds {k : Byte × (Byte → Bytes → Instr)} (hk : k ∈ silentKinds) (len : Byte)
    (tail : Bytes) (s : State) : exec (k.2 len tail) s = .next (s.takeFrame len k.1 tail).answerNothing := by
  simp only [silentKinds, List.mem_cons, List.not_mem_nil, or_false] at hk
  rcases hk with rfl | rfl | rfl | rfl | rfl
  all_goals rfl

/-- The state after a frame with a serial is emitted and its fields are extracted. -/
theorem takeFrame_of_serial {len pid s0 s1 : Byte} {tail : Bytes} (s : State)
    (h : frameSerial (frameBytes len pid tail) = some (s0, s1)) :
    s.takeFrame len pid tail =
      { s with
        fl := frameLength9 len, off := s.off + (len.toNat + 5), ctl := .scan,
        pid := pid, ser0 := s0, ser1 := s1, serValid := true,
        trace := s.trace ++ [.frm (frameBytes len pid tail)] } := by
  rw [State.takeFrame, State.setFields_of_serial _ pid h]
  rfl

/-- The acknowledgment built and emitted: what changes, field by field (42_response.md R136). -/
theorem answerAck_of_serValid {s : State} (h : s.serValid = true) (p : Byte) :
    s.answerAck p =
      { s with
        crc := crc16 [0x05, p, s.ser0, s.ser1] ^^^ 0xFFFF, rsp := ackBytes p s.ser0 s.ser1 ++ s.rsp.drop 10,
        rspLen := 10, trace := s.trace ++ [.rsp (ackBytes p s.ser0 s.ser1)] } := by
  rw [State.answerAck, if_pos h, crc16_complement]
  simp only [buildAck_response]
  rfl

theorem answerNothing_of_serValid {s : State} (h : s.serValid = true) :
    s.answerNothing = { s with rspLen := 0 } := by
  rw [State.answerNothing, if_pos h]
  rfl

/-- Settles O34: the frame is taken, then its acknowledgment built and emitted. -/
theorem ackKindsAreAcknowledged : Obligations.AckKindsAreAcknowledged := by
  refine ⟨?_, by decide +kernel⟩
  intro k hk len tail s s0 s1 f c r ht h1 hs0 hs1
  have hser := frameSerial_frameBytes (pid := k.1) ht h1 hs0 hs1
  rw [exec_of_mem_ackKinds hk, takeFrame_of_serial s hser, answerAck_of_serValid rfl]
  simp only [List.append_assoc, List.singleton_append]
  rfl

/-- Settles O35: the frame is taken and `RSP_LEN` cleared. -/
theorem silentKindsAreEmittedOnly : Obligations.SilentKindsAreEmittedOnly := by
  intro len tail s s0 s1 ht h1 after
  have silent (pid : Byte) (hser : frameSerial (frameBytes len pid tail) = some (s0, s1)) :
      (s.takeFrame len pid tail).answerNothing = after pid (frameBytes len pid tail) := by
    rw [takeFrame_of_serial s hser, answerNothing_of_serValid rfl]
  refine ⟨?_, ?_⟩
  · intro k hk f hs0 hs1
    rw [exec_of_mem_silentKinds hk, silent k.1 (frameSerial_frameBytes ht h1 hs0 hs1)]
    rfl
  · intro pid f hs0 hs1
    rw [exec, execOther, silent pid (frameSerial_frameBytes ht h1 hs0 hs1)]
    rfl

end Sys2Proof.Machine
end

section
/-! PROOF. The output trace only grows (spec/40_framer.md R109): every operation appends to it or leaves it
alone, and sequential composition keeps that. -/

namespace Sys2Proof.Machine

/-- Whatever state the outcome `o` answers, its trace begins with the one of `s`. -/
def OnlyAppends (s : State) (o : Outcome) : Prop := ∀ t, o = .next t → s.trace <+: t.trace

theorem OnlyAppends.of_next {s t : State} (h : s.trace <+: t.trace) : OnlyAppends s (.next t) := by
  rintro _ ⟨⟩
  exact h

/-- An operation that does not touch the trace. -/
theorem OnlyAppends.of_trace_eq {s t : State} (h : t.trace = s.trace) : OnlyAppends s (.next t) :=
  .of_next (h ▸ List.prefix_refl _)

theorem OnlyAppends.andThen {s : State} {o : Outcome} {k : State → Outcome} (ho : OnlyAppends s o)
    (hk : ∀ t, OnlyAppends t (k t)) : OnlyAppends s (andThen o k) := by
  intro u hu
  obtain ⟨t, hot, hku⟩ := andThen_eq_next hu
  exact (ho t hot).trans (hk t u hku)

theorem OnlyAppends.withByte {s : State} {a : Nat} {k : Byte → Outcome} (h : ∀ b, OnlyAppends s (k b)) :
    OnlyAppends s (withByte s a k) := by
  unfold Machine.withByte
  split
  · exact h _
  · nofun

theorem OnlyAppends.withRun {s : State} {a n : Nat} {k : Bytes → Outcome} (h : ∀ bs, OnlyAppends s (k bs)) :
    OnlyAppends s (withRun s a n k) := by
  unfold Machine.withRun
  split
  · exact h _
  · nofun

/-! ### Responses -/

theorem buildTimecal_trace (s : State) (a b : Byte) (now : Now) : (s.buildTimecal a b now).trace = s.trace := by
  rw [State.buildTimecal, State.assemble_trace, State.drawTime_trace]

theorem buildState_trace (s : State) (p a b : Byte) (now : Now) : (s.buildState p a b now).trace = s.trace := by
  rcases buildState_cases s p a b now with ⟨-, h⟩ | ⟨-, -, h⟩ | ⟨-, -, h⟩
  · rw [h, buildTimecal_trace]
  · rw [h, State.buildAck_trace]
  · rw [h, State.buildNothing_trace]

theorem trace_prefix_emitOptional (s : State) (r : Option Bytes) : s.trace <+: (s.emitOptional r).trace := by
  cases r with
  | none => exact List.prefix_refl _
  | some bs => exact List.prefix_append _ _

theorem onlyAppends_extractFields (f : Bytes) (s : State) : OnlyAppends s (extractFields f s) := by
  unfold extractFields
  split
  · exact .of_trace_eq (State.setFields_trace _ _ _)
  · nofun

theorem onlyAppends_processFrame (f : Bytes) (s : State) : OnlyAppends s (processFrame f s) := by
  refine (onlyAppends_extractFields f s).andThen fun t => ?_
  split
  · refine .of_next (List.IsPrefix.trans ?_ (trace_prefix_emitOptional _ _))
    rw [buildState_trace]
    split
    · rw [State.nowTaken_trace]
    · exact List.prefix_refl _
  · exact .of_trace_eq rfl

/-! ### Frame kinds -/

theorem trace_prefix_takeFrame (s : State) (len pid : Byte) (tail : Bytes) :
    s.trace <+: (s.takeFrame len pid tail).trace := by
  rw [State.takeFrame, State.setFields_trace, State.afterEmit_trace]
  exact List.prefix_append _ _

theorem trace_prefix_answerAck (s : State) (p : Byte) : s.trace <+: (s.answerAck p).trace := by
  unfold State.answerAck
  split
  · exact List.prefix_append _ _
  · exact List.prefix_refl _

theorem trace_prefix_answerTimecal (s : State) : s.trace <+: s.answerTimecal.trace := by
  unfold State.answerTimecal
  split
  · rw [State.emitResponse_trace, buildTimecal_trace, State.nowTaken_trace]
    exact List.prefix_append _ _
  · exact List.prefix_refl _

theorem answerNothing_trace (s : State) : s.answerNothing.trace = s.trace := by
  unfold State.answerNothing
  split <;> rfl

theorem onlyAppends_answerAck (s : State) (len pid : Byte) (tail : Bytes) :
    OnlyAppends s (.next ((s.takeFrame len pid tail).answerAck pid)) :=
  .of_next ((trace_prefix_takeFrame s len pid tail).trans (trace_prefix_answerAck _ pid))

theorem onlyAppends_answerNothing (s : State) (len pid : Byte) (tail : Bytes) :
    OnlyAppends s (.next (s.takeFrame len pid tail).answerNothing) :=
  .of_next (answerNothing_trace (s.takeFrame len pid tail) ▸ trace_prefix_takeFrame s len pid tail)

/-! ### The steps of `FEED`, and the pass -/

theorem onlyAppends_execFShort (s : State) : OnlyAppends s (execFShort s) := .of_trace_eq rfl

theorem onlyAppends_execFSkip (s : State) : OnlyAppends s (execFSkip s) :=
  .withByte fun _ => .withByte fun _ => by split <;> exact .of_trace_eq rfl

theorem onlyAppends_execFLen (s : State) : OnlyAppends s (execFLen s) := .withByte fun _ => .of_trace_eq rfl

theorem onlyAppends_execFWait (s : State) : OnlyAppends s (execFWait s) := .of_trace_eq rfl

theorem onlyAppends_execFEmit (s : State) : OnlyAppends s (execFEmit s) :=
  .withRun fun _ => .of_next (List.prefix_append _ _)

theorem onlyAppends_passIteration (s : State) : OnlyAppends s (passIteration s) := by
  refine (onlyAppends_execFShort s).andThen fun s1 => ?_
  split
  · exact .of_trace_eq rfl
  refine (onlyAppends_execFSkip s1).andThen fun s2 => ?_
  split
  · exact .of_trace_eq rfl
  refine (onlyAppends_execFLen s2).andThen fun s3 => (onlyAppends_execFWait s3).andThen fun s4 => ?_
  split
  · exact .of_trace_eq rfl
  refine (onlyAppends_execFEmit s4).andThen fun s5 => ?_
  split
  · exact onlyAppends_processFrame _ (s5.goto .scan)
  · exact .of_trace_eq rfl

theorem onlyAppends_passLoop (n : Nat) (s : State) : OnlyAppends s (passLoop n s) := by
  induction n generalizing s with
  | zero => exact .of_trace_eq rfl
  | succ n ih =>
    refine (onlyAppends_passIteration s).andThen fun t => ?_
    split
    · exact .of_trace_eq rfl
    · exact ih t

theorem onlyAppends_execFeed (c : Bytes) (s : State) : OnlyAppends s (execFeed c s) :=
  OnlyAppends.andThen (onlyAppends_passLoop _ (s.enterFeed c)) fun _ => .of_trace_eq rfl

/-! ### Every instruction and every step -/

theorem onlyAppends_exec (i : Instr) (s : State) : OnlyAppends s (exec i s) := by
  cases i with
  | login | heartbeat | gps | alarm | id27 | lbsMulti | addrReq | gpsA0 | lbs4g | fenceAlarm =>
    exact onlyAppends_answerAck s _ _ _
  | addrCn | respOnline | onlineCmd | infoXfer | addrEn | other => exact onlyAppends_answerNothing s _ _ _
  | timeCal len tail =>
    exact .of_next (t := (s.takeFrame len 0x8A tail).answerTimecal)
      ((trace_prefix_takeFrame s len 0x8A tail).trans (trace_prefix_answerTimecal _))
  | timecalRsp s0 s1 now =>
    exact .of_trace_eq (t := (s.buildTimecal s0 s1 now).handBack _) (buildTimecal_trace s s0 s1 now)
  | build pid s0 s1 now =>
    exact .of_trace_eq (t := (s.buildState pid s0 s1 now).handBack _) (buildState_trace s pid s0 s1 now)
  | extract f => exact onlyAppends_extractFields f s
  | process f => exact onlyAppends_processFrame f s
  | feed c => exact onlyAppends_execFeed c s
  | fSkip => exact onlyAppends_execFSkip s
  | fLen => exact onlyAppends_execFLen s
  | fEmit => exact onlyAppends_execFEmit s
  | nonsync | ack | reset | fAppend | fShort | fWait | fCompact | crc16 | crcInit | crcByte | crcFinal =>
    exact .of_trace_eq rfl

theorem onlyAppends_stepRest (s : State) : OnlyAppends s (stepRest s) := by
  unfold stepRest
  split
  · exact .of_trace_eq rfl
  · split
    · exact .of_trace_eq rfl
    · exact onlyAppends_exec _ { s with pending := _ }

theorem onlyAppends_stepScan (s : State) : OnlyAppends s (stepScan s) := by
  refine .withRun fun bs => ?_
  split
  all_goals exact onlyAppends_exec _ s

theorem onlyAppends_step (s : State) : OnlyAppends s (step s) := by
  unfold step
  cases s.ctl with
  | rest => exact onlyAppends_stepRest s
  | scan => exact onlyAppends_stepScan s
  | process f => exact onlyAppends_exec (.process f) (s.goto .scan)
  | sync | len | wait | emit | compact => exact onlyAppends_exec _ s

/-- Settles O15: every instruction only appends, hence so does the step that runs it. -/
theorem emittedEventsStay : Obligations.EmittedEventsStay := ⟨onlyAppends_exec, onlyAppends_step⟩

end Sys2Proof.Machine
end

section
/-! PROOF. The conditions of Table R201 as the outcomes of the steps that meet them (spec/60_exceptions.md R201
to R210): an iteration of the pass has three outcomes, no two of which agree, and `PROCESS` has four. -/

namespace Sys2Proof.Machine

/-! ### The three outcomes of an iteration -/

/-- The loop ends with `OFF` unchanged and at most `FL` written (R202). -/
def IterationStalls (s : State) : Prop := ∃ fl, passIteration s = .next { s with fl := fl, ctl := .compact }

/-- One byte is skipped (R203). -/
def IterationSkips (s : State) : Prop := passIteration s = .next { s with off := s.off + 1, ctl := .scan }

/-- The frame at `OFF` is emitted. -/
def IterationEmits (s : State) : Prop :=
  ∃ f rest t, s.window = f ++ rest ∧ isFrame f = true ∧ passIteration s = .next t ∧
    t.off = s.off + f.length ∧ s.trace ++ [.frm f] <+: t.trace

theorem not_append_singleton_prefix {α : Type} (l : List α) (a : α) : ¬ l ++ [a] <+: l := by
  intro h
  have := h.length_le
  simp at this

theorem IterationStalls.not_skips {s : State} (h : IterationStalls s) : ¬ IterationSkips s := by
  obtain ⟨fl, hit⟩ := h
  intro hskip
  have := congrArg State.ctl (Host.Outcome.next.inj (hit.symm.trans hskip))
  cases this

theorem IterationStalls.not_emits {s : State} (h : IterationStalls s) : ¬ IterationEmits s := by
  obtain ⟨fl, hit⟩ := h
  rintro ⟨f, rest, t, -, -, hit', -, htrace⟩
  obtain rfl := Host.Outcome.next.inj (hit.symm.trans hit')
  exact not_append_singleton_prefix _ _ htrace

theorem IterationSkips.not_emits {s : State} (h : IterationSkips s) : ¬ IterationEmits s := by
  rintro ⟨f, rest, t, -, -, hit, -, htrace⟩
  obtain rfl := Host.Outcome.next.inj (h.symm.trans hit)
  exact not_append_singleton_prefix _ _ htrace

theorem EmitsFrame.iterationEmits {s t : State} {f rest : Bytes} (h : EmitsFrame s t f rest)
    (hit : passIteration s = .next t) : IterationEmits s := by
  obtain ⟨r, -, htrace⟩ := h.answered
  refine ⟨f, rest, t, h.window, h.frame, hit, h.off, (r.map Event.rsp).toList, ?_⟩
  rw [htrace, List.append_assoc, List.singleton_append]

/-! ### The condition that names each outcome -/

theorem passCondition_of_isStalled {bs : Bytes} (h : isStalled bs = true) :
    passCondition bs = some .framingStall := by
  obtain ⟨r, hd⟩ := exists_reject_of_isStalled h
  simp only [passCondition, hd]

theorem passCondition_of_not_startsSync {bs : Bytes} (h6 : 6 ≤ bs.length) (hm : ¬ startsSync bs) :
    passCondition bs = some .framingDesync := by
  rcases passCondition_cases bs with ⟨-, hst⟩ | ⟨hc, -⟩ | ⟨-, f, rest, rfl, hf⟩
  · simp [isStalled_of_not_startsSync h6 hm] at hst
  · exact hc
  · exact absurd (startsSync_frame_append hf rest) hm

theorem passCondition_of_isFrame {f rest : Bytes} (hf : isFrame f = true) (h6 : 6 ≤ (f ++ rest).length) :
    passCondition (f ++ rest) = none := by
  obtain ⟨len, pid, tail, rfl, ht⟩ := (isFrame_iff f).1 hf
  exact passCondition_of_frame ht h6

/-- Each condition of an iteration comes with its outcome. -/
theorem passCondition_outcome {s : State} (hb : BufOk s) (ho : s.off ≤ s.bufLen) :
    (passCondition s.window = some .framingStall ∧ IterationStalls s) ∨
    (passCondition s.window = some .framingDesync ∧ IterationSkips s) ∨
    (passCondition s.window = none ∧ IterationEmits s) := by
  rcases passIteration_cases hb ho with
    ⟨fl, hit, hst, -⟩ | ⟨a, more, hit, -, h6, hm⟩ | ⟨f, rest, t, hit, hemits⟩
  · exact .inl ⟨passCondition_of_isStalled hst, fl, hit⟩
  · exact .inr (.inl ⟨passCondition_of_not_startsSync h6 hm, hit⟩)
  · refine .inr (.inr ⟨?_, hemits.iterationEmits hit⟩)
    rw [hemits.window]
    exact passCondition_of_isFrame hemits.frame hemits.enough

/-- The three conditions of an iteration are exactly its three outcomes (R202, R203, R210). -/
theorem passCondition_iff_outcome {s : State} (hb : BufOk s) (ho : s.off ≤ s.bufLen) :
    (passCondition s.window = some .framingStall ↔ IterationStalls s) ∧
    (passCondition s.window = some .framingDesync ↔ IterationSkips s) ∧
    (passCondition s.window = none ↔ IterationEmits s) := by
  rcases passCondition_outcome hb ho with ⟨hc, hstalls⟩ | ⟨hc, hskips⟩ | ⟨hc, hemits⟩
  · simp [hc, hstalls, hstalls.not_skips, hstalls.not_emits]
  · have hstalls : ¬ IterationStalls s := fun h => h.not_skips hskips
    simp [hc, hskips, hstalls, hskips.not_emits]
  · have hstalls : ¬ IterationStalls s := fun h => h.not_emits hemits
    have hskips : ¬ IterationSkips s := fun h => h.not_emits hemits
    simp [hc, hemits, hstalls, hskips]

/-! ### When an iteration stalls or skips -/

theorem passIteration_of_short {s : State} (hb : BufOk s) (ho : s.off ≤ s.bufLen) (h6 : s.avail < 6) :
    passIteration s = .next { s with ctl := .compact } := by
  rw [← window_length hb] at h6
  rcases iteration_cases s hb ho with ⟨-, hit⟩ | ⟨_, _, _, -, h, -⟩ | ⟨_, _, -, h, -⟩ | ⟨_, _, _, _, -, h, -⟩
  case inl => exact hit
  all_goals omega

theorem passIteration_of_mismatch {s : State} (hb : BufOk s) (ho : s.off ≤ s.bufLen) (h6 : 6 ≤ s.avail)
    (hm : ¬ startsSync s.window) : passIteration s = .next { s with off := s.off + 1, ctl := .scan } := by
  rw [← window_length hb] at h6
  exact ((passCondition_iff_outcome hb ho).2.1).1 (passCondition_of_not_startsSync h6 hm)

theorem passIteration_of_incomplete {s : State} {len : Byte} {more : Bytes} (hb : BufOk s) (ho : s.off ≤ s.bufLen)
    (hw : s.window = syncByte :: syncByte :: len :: more) (h6 : 6 ≤ s.avail) (hl : s.avail < len.toNat + 5) :
    passIteration s = .next { s with fl := frameLength9 len, ctl := .compact } := by
  rw [← window_length hb] at h6 hl
  rcases iteration_cases s hb ho with
    ⟨h, -⟩ | ⟨a, b, _, hw', -, hm, -⟩ | ⟨len', _, hw', -, -, hit⟩ | ⟨len', _, tail, _, hw', -, ht, -⟩
  case inl => omega
  case inr.inl =>
    cases hw.symm.trans hw'
    exact absurd ⟨rfl, rfl⟩ hm
  case inr.inr.inl =>
    cases hw.symm.trans hw'
    exact hit
  case inr.inr.inr =>
    cases hw.symm.trans hw'
    rw [hw', List.length_append, frameBytes_length, ht] at hl
    omega

/-! ### The four outcomes of `PROCESS` -/

theorem processCondition_of_no_serial {f : Bytes} (h : frameSerial f = none) (now : Now) :
    processCondition f now = some .serialAbsent := by
  simp [processCondition, h]

theorem processCondition_of_serial {len pid : Byte} {tail : Bytes} {ab : Byte × Byte}
    (h : frameSerial (frameBytes len pid tail) = some ab) (now : Now) :
    processCondition (frameBytes len pid tail) now =
      if pid = timecalId then (if now.inRange then none else some .timeOutOfRange)
      else if pid ∈ namedPids then none else some .unknownProtocol := by
  rw [processCondition, h]
  exact if_neg (by simp)

/-- `PROCESS` of a frame with a serial sets `SER_VALID` and appends at most one response: to `8A` one with six
time bytes, those of the sample when it is in range; to an id of `ACK_SET` the acknowledgment; to another id
nothing (R205, R206, R207). -/
theorem processFrame_trace_of_serial {len pid a b : Byte} {tail : Bytes} (s : State)
    (h : frameSerial (frameBytes len pid tail) = some (a, b)) :
    ∃ t, processFrame (frameBytes len pid tail) s = .next t ∧ t.serValid = true ∧
      ((pid = timecalId ∧ ∃ time : Bytes, time.length = 6 ∧ t.trace = s.trace ++ [.rsp (timecalBytes time a b)] ∧
          (s.nowValue.inRange = true → time = s.nowValue.bcdBytes)) ∨
       (pid ≠ timecalId ∧ pid ∈ ackSet ∧ t.trace = s.trace ++ [.rsp (ackBytes pid a b)]) ∨
       (pid ≠ timecalId ∧ pid ∉ ackSet ∧ t.trace = s.trace)) := by
  rw [processFrame_of_serial s h]
  by_cases hp : pid = timecalId
  · rw [if_pos hp]
    let s1 : State := { s with pid := pid, ser0 := a, ser1 := b, serValid := true }
    refine ⟨_, rfl, ?_, .inl ⟨hp, s1.nowTaken.timeBytes s.nowValue, State.timeBytes_length _ _, ?_,
      State.timeBytes_of_inRange _⟩⟩
    · simp [State.buildTimecal]
    · rw [State.emitResponse_trace, buildTimecal_trace, State.nowTaken_trace]
      rfl
  · rw [if_neg hp]
    by_cases ha : pid ∈ ackSet
    · rw [if_pos ha]
      exact ⟨_, rfl, rfl, .inr (.inl ⟨hp, ha, rfl⟩)⟩
    · rw [if_neg ha]
      exact ⟨_, rfl, rfl, .inr (.inr ⟨hp, ha, rfl⟩)⟩

/-- What `PROCESS` of a frame with protocol id `p` does, told by the conditions it meets in the order of R210:
first the serial, then the id, then the time. -/
def ProcessFollowsItsConditions (f : Bytes) (p : Byte) (s t : State) : Prop :=
  let met := processCondition f s.nowValue
  let unanswered := p ≠ 0x8A ∧ p ∉ ackSet
  (met = some .serialAbsent ↔ t.serValid = false) ∧
  (t.serValid = false ↔ f.length = 5) ∧
  (t.serValid = false → t.trace = s.trace) ∧
  (t.serValid = true ∧ t.trace = s.trace ↔ 6 ≤ f.length ∧ unanswered) ∧
  (met = some .unknownProtocol ↔ t.serValid = true ∧ t.trace = s.trace ∧ p ∉ silentKinds.map Prod.fst) ∧
  (met = some .timeOutOfRange ↔ t.serValid = true ∧ p = 0x8A ∧ s.nowValue.inRange = false) ∧
  (t.serValid = true → p = 0x8A → ∃ time a b, time.length = 6 ∧ frameSerial f = some (a, b) ∧
    t.trace = s.trace ++ [.rsp (timecalBytes time a b)] ∧
    (met ≠ some .timeOutOfRange → time = s.nowValue.bcdBytes))

theorem processFollows_of_no_serial {f : Bytes} {p : Byte} {s t : State} (hf : isFrame f = true)
    (hser : frameSerial f = none) (hv : t.serValid = false) (htrace : t.trace = s.trace) :
    ProcessFollowsItsConditions f p s t := by
  have hlen : f.length = 5 := by
    have := (frameSerial_eq_none_iff f).1 hser
    have := isFrame_length hf
    omega
  simp [ProcessFollowsItsConditions, processCondition_of_no_serial hser, hv, htrace, hlen]

section

variable {len p a b : Byte} {tail : Bytes} {s t : State}

/-- To `8A` the answer is always sent, its time bytes left free only out of range (R207). -/
theorem processFollows_of_timecal (hser : frameSerial (frameBytes len p tail) = some (a, b)) (hv : t.serValid = true)
    (hp : p = timecalId) {time : Bytes} (htime : time.length = 6)
    (htrace : t.trace = s.trace ++ [.rsp (timecalBytes time a b)])
    (hbcd : s.nowValue.inRange = true → time = s.nowValue.bcdBytes) :
    ProcessFollowsItsConditions (frameBytes len p tail) p s t := by
  have h6 := ((frameSerial_eq_some_iff _ a b).1 hser).1
  have h8A : p = 0x8A := hp
  have hmet := processCondition_of_serial hser s.nowValue
  rw [if_pos hp] at hmet
  have hne : (frameBytes len p tail).length ≠ 5 := by omega
  have hopen : processCondition (frameBytes len p tail) s.nowValue ≠ some .timeOutOfRange →
      s.nowValue.inRange = true := by
    rw [hmet]
    split <;> simp [*]
  refine ⟨?_, ?_, ?_, ?_, ?_, ?_, fun _ _ => ⟨time, a, b, htime, hser, htrace, fun h => hbcd (hopen h)⟩⟩
  · rw [hmet]
    split <;> simp [hv]
  · simp [hv, hne]
  · simp [hv]
  · simp [htrace, h8A]
  · rw [hmet]
    split <;> simp [htrace]
  · rw [hmet, and_iff_right hv, and_iff_right h8A]
    split <;> simp [*]

/-- To another id nothing is time-dependent: the answer is sent or not by membership in `ACK_SET`, and the id is
unknown when it is none of the sixteen named ones (R201, R205). -/
theorem processFollows_of_other (hser : frameSerial (frameBytes len p tail) = some (a, b)) (hv : t.serValid = true)
    (hp : p ≠ timecalId) (htrace : t.trace = s.trace ↔ p ∉ ackSet) :
    ProcessFollowsItsConditions (frameBytes len p tail) p s t := by
  have h6 := ((frameSerial_eq_some_iff _ a b).1 hser).1
  have h8A : p ≠ 0x8A := hp
  have hmet := processCondition_of_serial hser s.nowValue
  rw [if_neg hp] at hmet
  have hne : (frameBytes len p tail).length ≠ 5 := by omega
  have hnamed : p ∉ namedPids ↔ p ∉ ackSet ∧ p ∉ silentKinds.map Prod.fst := by
    rw [mem_namedPids_iff]
    tauto
  refine ⟨?_, ?_, ?_, ?_, ?_, ?_, fun _ h => absurd h h8A⟩
  · rw [hmet]
    split <;> simp [hv]
  · simp [hv, hne]
  · simp [hv]
  · simp only [hv, htrace, h6, h8A, true_and, ne_eq, not_false_eq_true]
  · rw [hmet, htrace, ← hnamed]
    split <;> simp [*]
  · rw [hmet]
    refine iff_of_false ?_ fun ⟨_, h, _⟩ => h8A h
    split <;> simp

end

/-- `PROCESS` of every frame follows its conditions, in each of its four outcomes. -/
theorem process_followsItsConditions {f : Bytes} (s : State) (hf : isFrame f = true) :
    ∃ p t, f[3]? = some p ∧ exec (.process f) s = .next t ∧ ProcessFollowsItsConditions f p s t := by
  obtain ⟨len, pid, tail, rfl, ht⟩ := (isFrame_iff f).1 hf
  cases hser : frameSerial (frameBytes len pid tail) with
  | none =>
    refine ⟨pid, _, rfl, processFrame_of_none s hser, processFollows_of_no_serial hf hser ?_ ?_⟩
    · rw [State.setFields_serValid, hser, Option.isSome_none]
    · rw [State.setFields_trace]
  | some ab =>
    obtain ⟨t, hproc, hv, ⟨hp, time, htime, htrace, hbcd⟩ | ⟨hp, ha, htrace⟩ | ⟨hp, ha, htrace⟩⟩ :=
      processFrame_trace_of_serial s hser
    · exact ⟨pid, t, rfl, hproc, processFollows_of_timecal hser hv hp htime htrace hbcd⟩
    · exact ⟨pid, t, rfl, hproc, processFollows_of_other hser hv hp (by simp [htrace, ha])⟩
    · exact ⟨pid, t, rfl, hproc, processFollows_of_other hser hv hp (by simp [htrace, ha])⟩

/-- Settles O56: the outcomes of an iteration exclude one another, and `PROCESS` is followed through its tests. -/
theorem conditionsFollowTheTestOrder : Obligations.ConditionsFollowTheTestOrder := by
  refine ⟨fun s hs _ => ?_, fun f s hf => process_followsItsConditions s hf⟩
  obtain ⟨hstall, hdesync, hnone⟩ := passCondition_iff_outcome hs.buffer hs.offset
  exact ⟨hstall, hdesync, hnone, passIteration_of_short hs.buffer hs.offset,
    passIteration_of_mismatch hs.buffer hs.offset, fun _ _ => passIteration_of_incomplete hs.buffer hs.offset⟩

end Sys2Proof.Machine
end

section
/-! PROOF. The checksum (spec/41_crc.md R120 to R129): the three steps over the register make up a `CRC16`, and
the checksum embedded in a response recomputes over the bytes it covers. -/

namespace Sys2Proof

/-! ### The checksum embedded in a response -/

/-- Between the sync and the checksum stand the covered bytes (R126). -/
theorem sealResponse_covered (m : Bytes) :
    ((sealResponse m).drop 2).take ((sealResponse m).length - 6) = m := by
  rw [sealResponse_length, Nat.add_sub_cancel]
  exact List.take_left

/-- The two bytes after the covered ones are the checksum, high byte first (R125). -/
theorem sealResponse_checksum (m : Bytes) :
    (sealResponse m).getD ((sealResponse m).length - 4) 0 = hi (crc16 m) ∧
    (sealResponse m).getD ((sealResponse m).length - 3) 0 = lo (crc16 m) := by
  rw [sealResponse_length]
  constructor <;> simp [sealResponse]

end Sys2Proof

namespace Sys2Proof.Machine

/-- What `BUILD` returns is some covered bytes sealed: both response forms are assembled the same way (R136, R137). -/
theorem exists_sealResponse_of_built {s : State} {pid s0 s1 : Byte} {now : Now} {r : Bytes}
    (h : (s.buildState pid s0 s1 now).built = some r) : ∃ m, r = sealResponse m := by
  rcases buildState_cases s pid s0 s1 now with ⟨-, hb⟩ | ⟨-, -, hb⟩ | ⟨-, -, hb⟩ <;> rw [hb] at h
  · rw [buildTimecal_built] at h
    exact ⟨timecalCovered (s.timeBytes now) s0 s1, (Option.some.inj h).symm⟩
  · rw [buildAck_built] at h
    exact ⟨ackCovered pid s0 s1, (Option.some.inj h).symm⟩
  · rw [buildNothing_built] at h
    cases h

theorem exec_build (pid s0 s1 : Byte) (now : Now) (s : State) :
    exec (.build pid s0 s1 now) s =
      .next ((s.buildState pid s0 s1 now).handBack (.response (s.buildState pid s0 s1 now).built)) := rfl

theorem built_of_exec_build {pid s0 s1 : Byte} {now : Now} {s t : State} {r : Option Bytes}
    (ht : exec (.build pid s0 s1 now) s = .next t) (hr : t.result = .response r) :
    (s.buildState pid s0 s1 now).built = r := by
  obtain rfl := Host.Outcome.next.inj ((exec_build pid s0 s1 now s).symm.trans ht)
  exact Result.response.inj hr

/-- Settles O50: every response is covered bytes sealed with their own checksum, whatever the time bytes are. -/
theorem responseChecksumRecomputes : Obligations.ResponseChecksumRecomputes := by
  intro pid s0 s1 now s t r ht hr
  obtain ⟨m, rfl⟩ := exists_sealResponse_of_built (built_of_exec_build ht hr)
  obtain ⟨hhi, hlo⟩ := sealResponse_checksum m
  rw [hhi, hlo, be16_hi_lo, sealResponse_covered]

/-! ### The steps over the register -/

theorem exec_crcInit (s : State) : exec .crcInit s = .next { s with crc := crcInitValue } := rfl

theorem exec_crcByte (b : Byte) (s : State) : exec (.crcByte b) s = .next { s with crc := crcByte s.crc b } := rfl

theorem exec_crcFinal (s : State) : exec .crcFinal s = .next (s.handBack (.checksum (crcFinish s.crc))) := rfl

theorem exec_crc16 (m : Bytes) (s : State) :
    exec (.crc16 m) s = .next ((s.runCrc m).handBack (.checksum (crc16 m))) := rfl

/-- One `CRC.BYTE` a byte continues from whatever the register holds (log 21). -/
theorem crcByteAll_eq (m : Bytes) (s : State) : crcByteAll m s = .next { s with crc := m.foldl crcByte s.crc } := by
  induction m generalizing s with
  | nil => rfl
  | cons b bs ih => rw [crcByteAll, exec_crcByte, andThen_next, ih, List.foldl_cons]

/-- `CRC.INIT` and one `CRC.BYTE` a byte leave the register of the sequence (R120). -/
theorem crcInit_crcByteAll (m : Bytes) (s : State) : andThen (exec .crcInit s) (crcByteAll m) = .next (s.runCrc m) := by
  rw [exec_crcInit, andThen_next, crcByteAll_eq]
  rfl

/-- `CRC.INIT` comes first, so the earlier register is lost (R121). -/
theorem runCrc_crc_irrelevant (m : Bytes) (c : Word16) (s : State) : { s with crc := c }.runCrc m = s.runCrc m := rfl

/-- Settles O43: the bytes by induction, and the register left is the complement of the value returned. -/
theorem crc16IsInitBytesFinal : Obligations.Crc16IsInitBytesFinal := by
  refine ⟨fun m s => ⟨?_, ?_⟩, rfl, by decide +kernel⟩
  · rw [crcInit_crcByteAll, andThen_next, exec_crcFinal, exec_crc16, State.runCrc_crc, crc16]
  · rw [exec_crc16, crc16_complement]
    rfl

/-- Settles O40: a `CRC16` starts from `CRC.INIT`, whatever the register holds. -/
theorem crcInitSetsAllOnes : Obligations.CrcInitSetsAllOnes := by
  refine fun s => ⟨exec_crcInit s, fun m c => ?_⟩
  rw [exec_crc16, runCrc_crc_irrelevant, exec_crc16]

/-- Settles O42: `CRC.FINAL` only hands back the complement. -/
theorem crcFinalComplementsTheRegister : Obligations.CrcFinalComplementsTheRegister := exec_crcFinal

end Sys2Proof.Machine
end

section
/-! PROOF. The responses (spec/42_response.md R135 to R153, R162; spec/60_exceptions.md R207): each form as a record
update, `BUILD` by its three cases, a response as a frame, and the time calibration. -/

namespace Sys2Proof

/-! ### A sealed response is a frame -/

section

variable {len pid s0 s1 : Byte} {mid : Bytes}

/-- A response is laid out as the frame with its `len`: what follows the protocol id ends with the serial, the
checksum and the trailer (R162). -/
theorem sealResponse_eq_frameBytes :
    sealResponse (len :: pid :: (mid ++ [s0, s1])) =
      frameBytes len pid
        (mid ++ [s0, s1, hi (crc16 (len :: pid :: (mid ++ [s0, s1]))), lo (crc16 (len :: pid :: (mid ++ [s0, s1]))),
          trailer0, trailer1]) := by
  simp [sealResponse, frameBytes]

theorem isFrame_sealResponse (h : len.toNat = mid.length + 5) :
    isFrame (sealResponse (len :: pid :: (mid ++ [s0, s1]))) = true := by
  rw [sealResponse_eq_frameBytes, isFrame_iff]
  exact ⟨len, pid, _, rfl, by simp [h]⟩

theorem frameTrailer_sealResponse (m : Bytes) : Machine.frameTrailer (sealResponse m) = [trailer0, trailer1] := by
  have hsplit : sealResponse m = ([syncByte, syncByte] ++ m ++ [hi (crc16 m), lo (crc16 m)]) ++ [trailer0, trailer1] := by
    simp [sealResponse]
  rw [Machine.frameTrailer, hsplit]
  exact List.drop_left' (by simp)

theorem frameSerial_sealResponse (h : len.toNat = mid.length + 5) :
    Machine.frameSerial (sealResponse (len :: pid :: (mid ++ [s0, s1]))) = some (s0, s1) := by
  rw [sealResponse_eq_frameBytes]
  refine Machine.frameSerial_frameBytes (by simp [h]) (by omega) ?_ ?_
  all_goals simp [h, frameBytes]

end

end Sys2Proof

namespace Sys2Proof.Machine

/-! ### The response forms -/

/-- What assembling a response changes: the checksum register, the response and its length (R136, R137). -/
theorem assemble_eq (s : State) (m : Bytes) :
    s.assemble m =
      { s with
        crc := crc16 m ^^^ 0xFFFF, rsp := sealResponse m ++ s.rsp.drop (m.length + 6), rspLen := m.length + 6 } := by
  rw [crc16_complement, ← sealResponse_length]
  rfl

theorem buildTimecal_of_inRange (s : State) (s0 s1 : Byte) {now : Now} (h : now.inRange = true) :
    s.buildTimecal s0 s1 now = s.assemble (timecalCovered now.bcdBytes s0 s1) := by
  rw [State.buildTimecal, State.drawTime_of_inRange s h, State.timeBytes_of_inRange s h]

theorem exec_ack (pid s0 s1 : Byte) (s : State) :
    exec (.ack pid s0 s1) s =
      .next ((s.buildAck pid s0 s1).handBack (.response (some (ackBytes pid s0 s1)))) := by
  rw [← buildAck_response s]
  rfl

theorem exec_timecalRsp (s0 s1 : Byte) (now : Now) (s : State) :
    exec (.timecalRsp s0 s1 now) s =
      .next ((s.buildTimecal s0 s1 now).handBack (.response (some (timecalBytes (s.timeBytes now) s0 s1)))) := by
  rw [← buildTimecal_response s]
  rfl

/-- Settles O46: the four covered bytes are assembled and handed back. -/
theorem ackFormIsBuilt : Obligations.AckFormIsBuilt := by
  refine ⟨fun pid s0 s1 s => ?_, by decide +kernel⟩
  rw [exec_ack, State.buildAck, assemble_eq]
  rfl

/-- Settles O47: in range, the ten covered bytes are assembled and handed back. -/
theorem timecalFormIsBuilt : Obligations.TimecalFormIsBuilt := by
  refine ⟨?_, by decide +kernel⟩
  intro s0 s1 now s covered r hr
  rw [exec_timecalRsp, buildTimecal_of_inRange s s0 s1 hr, assemble_eq, State.timeBytes_of_inRange s hr]
  rfl

/-! ### `BUILD` -/

/-- What `BUILD` returns, by the protocol id (Pseudocode R135). -/
theorem buildState_built (s : State) (pid s0 s1 : Byte) (now : Now) :
    (s.buildState pid s0 s1 now).built =
      if pid = timecalId then some (timecalBytes (s.timeBytes now) s0 s1)
      else if pid ∈ ackSet then some (ackBytes pid s0 s1)
      else none := by
  rcases buildState_cases s pid s0 s1 now with ⟨hp, hb⟩ | ⟨hp, ha, hb⟩ | ⟨hp, ha, hb⟩
  · rw [hb, if_pos hp, buildTimecal_built]
  · rw [hb, if_neg hp, if_pos ha, buildAck_built]
  · rw [hb, if_neg hp, if_neg ha, buildNothing_built]

theorem exec_build_of_timecalId (s0 s1 : Byte) (now : Now) (s : State) :
    exec (.build timecalId s0 s1 now) s = exec (.timecalRsp s0 s1 now) s := by
  rw [exec_build, exec_timecalRsp, buildState_built, if_pos rfl, State.buildState, if_pos rfl]

theorem exec_build_of_mem_ackSet {pid : Byte} (ha : pid ∈ ackSet) (s0 s1 : Byte) (now : Now) (s : State) :
    exec (.build pid s0 s1 now) s = exec (.ack pid s0 s1) s := by
  have hp : pid ≠ timecalId := fun h => timecalId_not_mem_ackSet (h ▸ ha)
  rw [exec_build, exec_ack, buildState_built, if_neg hp, if_pos ha, State.buildState, if_neg hp, if_pos ha]

theorem exec_build_of_unanswered {pid : Byte} (hp : pid ≠ timecalId) (ha : pid ∉ ackSet) (s0 s1 : Byte) (now : Now)
    (s : State) :
    exec (.build pid s0 s1 now) s = .next { s with rspLen := 0, result := .response none } := by
  rw [exec_build, buildState_built, if_neg hp, if_neg ha, State.buildState, if_neg hp, if_neg ha]
  rfl

/-- A response of `BUILD` is sixteen bytes or ten (R135, R136, R137). -/
theorem built_length (s : State) (pid s0 s1 : Byte) (now : Now) :
    (s.buildState pid s0 s1 now).built = none ∨
      ∃ bs, (s.buildState pid s0 s1 now).built = some bs ∧ (bs.length = 10 ∨ bs.length = 16) := by
  rw [buildState_built]
  split_ifs
  · exact .inr ⟨_, rfl, .inr (timecalBytes_length s0 s1 (State.timeBytes_length s now))⟩
  · exact .inr ⟨_, rfl, .inl (ackBytes_length pid s0 s1)⟩
  · exact .inl rfl

/-- Settles O48: the two tests of `BUILD` exclude each other, and what it returns has the length of its form. -/
theorem buildDecidesByProtocolId : Obligations.BuildDecidesByProtocolId := by
  intro pid s0 s1 now s
  refine ⟨?_, fun ha => exec_build_of_mem_ackSet ha s0 s1 now s,
    fun hp ha => exec_build_of_unanswered hp ha s0 s1 now s,
    _, _, exec_build pid s0 s1 now s, rfl, built_length s pid s0 s1 now⟩
  rintro rfl
  exact exec_build_of_timecalId s0 s1 now s

theorem mem_ackSet_of_mem_ackKinds {k : Byte × (Byte → Bytes → Instr)} (hk : k ∈ ackKinds) : k.1 ∈ ackSet :=
  List.mem_map_of_mem (f := Prod.fst) hk

/-- Settles O49: the map is Table R70 (O5), and `BUILD` of an id of `ACK_SET` is the form `ACK` (O48, O46). -/
theorem ackIdsGetTheAcknowledgment : Obligations.AckIdsGetTheAcknowledgment := by
  refine ⟨fun k hk len tail rest ht h6 => ?_, fun k hk s0 s1 now s => ?_, by decide +kernel⟩
  · exact (protocolIdSelectsTheKind len tail rest ht h6).1 k hk
  · rw [exec_build_of_mem_ackSet (mem_ackSet_of_mem_ackKinds hk)]
    exact ackFormIsBuilt.1 k.1 s0 s1 s

/-- Settles O51: both forms seal `len`, the id, the time bytes if any, and the serial. -/
theorem responseIsAFrameThatEchoesTheSerial : Obligations.ResponseIsAFrameThatEchoesTheSerial := by
  intro pid s0 s1 now s t r ht hr
  have hbuilt := built_of_exec_build ht hr
  rw [buildState_built] at hbuilt
  split_ifs at hbuilt with hp
  · obtain rfl := Option.some.inj hbuilt
    have hlen : timecalLen.toNat = (s.timeBytes now).length + 5 := by
      rw [State.timeBytes_length]
      rfl
    exact ⟨isFrame_sealResponse hlen, congrArg some hp.symm, frameSerial_sealResponse hlen,
      frameTrailer_sealResponse _⟩
  · obtain rfl := Option.some.inj hbuilt
    have hlen : ackLen.toNat = ([] : Bytes).length + 5 := rfl
    exact ⟨isFrame_sealResponse hlen, rfl, frameSerial_sealResponse hlen, frameTrailer_sealResponse _⟩

/-- `BUILD` reads the state only for the time bytes of an out-of-range time, and the time only for `8A` (R139). -/
theorem built_independent {pid : Byte} {n1 n2 : Now} (h : pid ≠ timecalId ∨ (n1 = n2 ∧ n1.inRange = true))
    (s0 s1 : Byte) (s t : State) :
    (s.buildState pid s0 s1 n1).built = (t.buildState pid s0 s1 n2).built := by
  rw [buildState_built, buildState_built]
  rcases h with hp | ⟨rfl, hr⟩
  · rw [if_neg hp, if_neg hp]
  · rw [State.timeBytes_of_inRange s hr, State.timeBytes_of_inRange t hr]

/-- Settles O52: what `BUILD` returns is told by the id, the serial and, for `8A`, the time in range. -/
theorem buildIsPure : Obligations.BuildIsPure := by
  intro pid s0 s1 n1 n2 s t t1 t2 h h1 h2
  rw [exec_build] at h1 h2
  obtain rfl := Host.Outcome.next.inj h1
  obtain rfl := Host.Outcome.next.inj h2
  exact congrArg Result.response (built_independent h s0 s1 s t)

/-! ### The time calibration -/

/-- What a sample of `NOW` changes: the port loses its next value, or a free value is drawn (log 8). -/
theorem nowTaken_eq (s : State) :
    s.nowTaken =
      { s with
        nowPort := s.nowPort.tail, draws := if s.nowPort.isEmpty then s.draws + 1 else s.draws } := by
  unfold State.nowTaken
  split
  case h_1 hport => simp [hport]
  case h_2 hport => simp [hport]

/-- What drawing the time bytes changes: the draw counter, for a time out of range (log 9). -/
theorem drawTime_eq (s : State) (now : Now) :
    s.drawTime now = { s with draws := if now.inRange then s.draws else s.draws + 1 } := by
  unfold State.drawTime
  split <;> rfl

/-- A sample of `NOW` takes the next value off the port (log 8). -/
theorem nowTaken_nowPort (s : State) : s.nowTaken.nowPort = s.nowPort.tail := by rw [nowTaken_eq]

/-- The time calibration built and emitted: what changes, field by field, for a time in range or not (R137, R207). -/
theorem answerTimecal_of_serValid {s : State} (h : s.serValid = true) :
    let time := s.nowTaken.timeBytes s.nowValue
    s.answerTimecal =
      { s.nowTaken.drawTime s.nowValue with
        crc := crc16 (timecalCovered time s.ser0 s.ser1) ^^^ 0xFFFF,
        rsp := timecalBytes time s.ser0 s.ser1 ++ s.rsp.drop 16, rspLen := 16,
        trace := s.trace ++ [.rsp (timecalBytes time s.ser0 s.ser1)] } := by
  intro time
  have hlen : (timecalCovered time s.ser0 s.ser1).length + 6 = 16 := by
    simp [timecalCovered, time, State.timeBytes_length]
  rw [State.answerTimecal, if_pos h]
  simp only [buildTimecal_response]
  rw [State.buildTimecal, assemble_eq, hlen, State.drawTime_rsp, State.nowTaken_rsp, State.emitResponse,
    State.drawTime_trace, State.nowTaken_trace]
  rfl

/-- `TIME_CAL` of a frame with a serial: the frame emitted, `NOW` sampled, the response built and emitted (R153). -/
theorem exec_timeCal_of_serial {len s0 s1 : Byte} {tail : Bytes} (s : State)
    (h : frameSerial (frameBytes len 0x8A tail) = some (s0, s1)) :
    let time := s.nowTaken.timeBytes s.nowValue
    exec (.timeCal len tail) s = .next
      { s.nowTaken.drawTime s.nowValue with
        fl := frameLength9 len, off := s.off + (len.toNat + 5), ctl := .scan,
        pid := 0x8A, ser0 := s0, ser1 := s1, serValid := true,
        crc := crc16 (timecalCovered time s0 s1) ^^^ 0xFFFF,
        rsp := timecalBytes time s0 s1 ++ s.rsp.drop 16, rspLen := 16,
        trace := s.trace ++ [.frm (frameBytes len 0x8A tail), .rsp (timecalBytes time s0 s1)] } := by
  intro time
  rw [exec, execTimeCal, takeFrame_of_serial s h, answerTimecal_of_serValid rfl]
  simp only [time, drawTime_eq, nowTaken_eq, List.append_assoc, List.singleton_append]
  rfl

/-- Settles O36: a sample in range draws nothing, and its time bytes are its packed BCD. -/
theorem timeCalIsAnsweredWithTheTime : Obligations.TimeCalIsAnsweredWithTheTime := by
  refine ⟨?_, by decide +kernel⟩
  intro len tail s s0 s1 f now covered r ht h1 hs0 hs1 hr
  have hexec := exec_timeCal_of_serial s (frameSerial_frameBytes ht h1 hs0 hs1)
  rw [State.drawTime_of_inRange _ hr, State.timeBytes_of_inRange _ hr] at hexec
  exact hexec

/-- Settles O37: whatever the six time bytes are, the response is the same form around them. -/
theorem timeOutOfRangeLeavesOnlyTheTimeBytesOpen : Obligations.TimeOutOfRangeLeavesOnlyTheTimeBytesOpen := by
  intro len tail s s0 s1 f ht h1 hs0 hs1 _
  refine ⟨s.nowTaken.timeBytes s.nowValue, _, State.timeBytes_length _ _,
    exec_timeCal_of_serial s (frameSerial_frameBytes ht h1 hs0 hs1), rfl, ?_⟩
  exact ⟨by simp, by simp, rfl, rfl, rfl, rfl, rfl, rfl, rfl, rfl, rfl, rfl, by simp, by simp,
    by rw [State.drawTime_nowPort, nowTaken_nowPort]⟩

end Sys2Proof.Machine
end

section
/-! PROOF. No step of the machine stops (spec/60_exceptions.md R200): the instructions that can fault are those
that read `BUF` or a frame operand, and at each control position the invariant says that what is read exists. -/

namespace Sys2Proof.Machine

theorem continues_next (s : State) : Continues (.next s) := ⟨s, rfl⟩

/-! ### What the platform queues -/

/-- A frame operand has a byte 3, so `EXTRACT` of it finds its protocol id (R100). -/
theorem continues_extract {f : Bytes} (hf : isFrame f = true) (s : State) : Continues (exec (.extract f) s) := by
  obtain ⟨len, pid, tail, rfl, -⟩ := (isFrame_iff f).1 hf
  exact ⟨_, extractFields_frameBytes len pid tail s⟩

theorem continues_process {f : Bytes} (hf : isFrame f = true) (s : State) : Continues (exec (.process f) s) := by
  obtain ⟨_, t, -, hexec, -⟩ := process_followsItsConditions s hf
  exact ⟨t, hexec⟩

theorem continues_feed {s : State} (h : BufOk s) (c : Bytes) : Continues (exec (.feed c) s) := by
  obtain ⟨t, hexec, -⟩ := execFeed_reaches h c
  exact ⟨t, hexec⟩

/-- Of what the platform may queue only `FEED` reads `BUF`, and only `EXTRACT` and `PROCESS` have a frame operand
(R230). -/
theorem continues_exec_of_platformMay {i : Instr} {s : State} (hb : BufOk s) (hi : Instr.platformMay i = true) :
    Continues (exec i s) := by
  cases i with
  | fAppend | fShort | fSkip | fLen | fWait | fEmit | fCompact => cases hi
  | feed c => exact continues_feed hb c
  | extract f => exact continues_extract hi s
  | process f => exact continues_process hi s
  | login | heartbeat | addrCn | respOnline | gps | alarm | id27 | lbsMulti | addrReq | onlineCmd | timeCal
  | infoXfer | addrEn | gpsA0 | lbs4g | fenceAlarm | other | nonsync | ack | timecalRsp | reset | crc16 | crcInit
  | crcByte | crcFinal | build => exact continues_next _

/-! ### The reads inside a pass -/

/-- With six bytes available the sync test and the length test read bytes that exist (R92, R94, R95). -/
theorem exists_window_eq_of_six {s : State} (hb : BufOk s) (h6 : 6 ≤ s.avail) :
    ∃ a b len more, s.window = a :: b :: len :: more := by
  rw [← window_length hb] at h6
  match s.window, h6 with
  | a :: b :: len :: more, _ => exact ⟨a, b, len, more, rfl⟩

theorem continues_fSkip {s : State} (hb : BufOk s) (h6 : 6 ≤ s.avail) : Continues (exec .fSkip s) := by
  obtain ⟨a, b, len, more, hw⟩ := exists_window_eq_of_six hb h6
  exact ⟨_, execFSkip_window hb hw⟩

theorem continues_fLen {s : State} (hb : BufOk s) (h6 : 6 ≤ s.avail) : Continues (exec .fLen s) := by
  obtain ⟨a, b, len, more, hw⟩ := exists_window_eq_of_six hb h6
  exact ⟨_, execFLen_window hb hw⟩

theorem continues_fEmit {s : State} (hb : BufOk s) (ho : s.off ≤ s.bufLen) (hfl : s.fl.toNat ≤ s.avail) :
    Continues (exec .fEmit s) := by
  have hfit : s.off + s.fl.toNat ≤ s.bufLen := by
    rw [State.avail] at hfl
    omega
  obtain ⟨f, -, -, hexec⟩ := emitSlicesTheFrame s hb hfit
  exact ⟨_, hexec⟩

/-! ### The step of the machine -/

/-- At rest the next operation is one the platform may queue (R228, R230). -/
theorem StateInv.continues_stepRest {s : State} (h : StateInv s) : Continues (stepRest s) := by
  unfold stepRest
  split
  next => exact continues_next s
  next i rest hp =>
    split
    next chunk _ => exact continues_next _
    next =>
      exact continues_exec_of_platformMay (bufOk_of_eq h.buffer rfl rfl) (h.platform i (hp ▸ List.mem_cons_self))

/-- At the head of the loop a step runs an iteration of the pass, or `F.SHORT` where no instruction is complete
(R92, R93). -/
theorem StateInv.continues_step_of_scan {s : State} (h : StateInv s) (hc : s.ctl = .scan) : Continues (step s) := by
  have hloop : AtLoopHead s := ⟨h.buffer, h.offset, hc⟩
  cases hd : decode s.window with
  | instr i left =>
    obtain ⟨t, hit, -, -⟩ := hloop.passIteration_reaches
    rw [hloop.step_of_instr hd, ← instructionsAreIterationsOfThePass s i left h hc hd]
    exact ⟨t, hit⟩
  | reject r =>
    rw [hloop.step_of_reject hd]
    exact continues_next _

/-- Settles O12: by the control position, whose clause of the invariant admits what the step reads. -/
theorem noStepStops : Obligations.NoStepStops := by
  intro s h
  suffices CtlOk s → Continues (step s) from this h.control
  unfold CtlOk step
  cases hc : s.ctl with
  | rest => exact fun _ => h.continues_stepRest
  | scan => exact fun _ => by simpa only [step, hc] using h.continues_step_of_scan hc
  | sync => exact continues_fSkip h.buffer
  | len => exact fun ⟨h6, _⟩ => continues_fLen h.buffer h6
  | emit => exact fun ⟨_, _, _, hfl⟩ => continues_fEmit h.buffer h.offset hfl
  | process f => exact fun hf => continues_process hf (s.goto .scan)
  | wait | compact => exact fun _ => continues_next _

end Sys2Proof.Machine
end

section
/-! PROOF. The loop of the pass as a run of iterations (spec/40_framer.md R90, R102), the stall that a pass has
ended with (spec/10_state.md R26), and the iterations of two runs side by side: an iteration sees only the bytes
from `OFF` on, and of these, unless it stalls, only the ones it needs. -/

namespace Sys2Proof.Machine

/-! ### The loop as a run of iterations -/

/-- The loop of Pseudocode R90 entered at `s` ends before `F.COMPACT` in `t`, after some number of iterations. -/
inductive LoopRun : State → State → Prop where
  | ends {s t : State} : passIteration s = .next t → t.ctl = .compact → LoopRun s t
  | continues {s t u : State} : passIteration s = .next t → AtLoopHead t → LoopRun t u → LoopRun s u

theorem AtLoopHead.of_passIteration {s t : State} (hs : AtLoopHead s) (hit : passIteration s = .next t)
    (hc : t.ctl = .scan) : AtLoopHead t ∧ t.avail < s.avail := by
  obtain ⟨u, hit', -, hadv⟩ := hs.passIteration_reaches
  obtain rfl := Host.Outcome.next.inj (hit.symm.trans hit')
  rcases hadv with hend | hadvances
  · cases hc.symm.trans hend
  · exact hadvances

theorem AtLoopHead.exists_loopRun {s : State} (h : AtLoopHead s) : ∃ t, LoopRun s t := by
  induction hn : s.avail using Nat.strong_induction_on generalizing s with
  | _ n ih =>
    obtain ⟨t, hit, -, hend | ⟨ht, hlt⟩⟩ := h.passIteration_reaches
    · exact ⟨t, .ends hit hend⟩
    · obtain ⟨u, hrun⟩ := ih t.avail (hn ▸ hlt) ht rfl
      exact ⟨u, .continues hit ht hrun⟩

/-- More iterations allowed than bytes left are enough for the loop to end where it ends (R102). -/
theorem LoopRun.passLoop_eq {s t : State} (hrun : LoopRun s t) (hs : AtLoopHead s) {n : Nat} (hn : s.avail < n) :
    passLoop n s = .next t := by
  induction hrun generalizing n with
  | ends hit hc =>
    obtain ⟨n, rfl⟩ : ∃ m, n = m + 1 := ⟨n - 1, by omega⟩
    exact passLoop_of_ends n hit hc
  | continues hit ht _ ih =>
    obtain ⟨n, rfl⟩ : ∃ m, n = m + 1 := ⟨n - 1, by omega⟩
    obtain ⟨-, hlt⟩ := hs.of_passIteration hit ht.control
    rw [passLoop_of_continues n hit ht.control, ih ht (by omega)]

theorem LoopRun.control {s t : State} (h : LoopRun s t) : t.ctl = .compact := by
  induction h with
  | ends _ hc => exact hc
  | continues _ _ _ ih => exact ih

/-- An iteration that ends the loop has at most written `FL`, and that only where a frame has begun (R92, R96). -/
theorem AtLoopHead.eq_of_ends {s t : State} (hs : AtLoopHead s) (hit : passIteration s = .next t)
    (hc : t.ctl = .compact) :
    ∃ fl, t = { s with fl := fl }.goto .compact ∧ (fl = s.fl ∨ 6 ≤ s.avail ∧ startsSync s.window) := by
  have hlen := window_length hs.buffer
  rcases iteration_cases s hs.buffer hs.offset with
    ⟨-, hit'⟩ | ⟨_, _, _, -, -, -, hit'⟩ | ⟨len, more, hw, h6, -, hit'⟩ | ⟨len, pid, tail, rest, hw, h6, ht, hit'⟩
  case inr.inr.inr =>
    obtain ⟨u, hp, hemits⟩ := emitsFrame_processFrame hw h6 ht
    obtain rfl := Host.Outcome.next.inj (hit.symm.trans (hit'.trans hp))
    cases hemits.control.symm.trans hc
  all_goals obtain rfl := Host.Outcome.next.inj (hit'.symm.trans hit)
  case inl => exact ⟨s.fl, rfl, .inl rfl⟩
  case inr.inl => cases hc
  case inr.inr.inl => exact ⟨_, rfl, .inr ⟨hlen ▸ h6, by rw [hw]; exact ⟨rfl, rfl⟩⟩⟩

theorem LoopRun.bufOk {s t : State} (h : LoopRun s t) (hs : AtLoopHead s) : BufOk t := by
  induction h with
  | ends hit hc =>
    obtain ⟨fl, rfl, -⟩ := hs.eq_of_ends hit hc
    exact bufOk_of_eq hs.buffer rfl rfl
  | continues _ ht _ ih => exact ih ht

/-- Settles O24: the loop has a run, and both bounds exceed the bytes left. -/
theorem passEndsWithinBufLenPlusOneIterations : Obligations.PassEndsWithinBufLenPlusOneIterations := by
  intro s k hs hc
  have hhead : AtLoopHead s := ⟨hs.buffer, hs.offset, hc⟩
  obtain ⟨t, hrun⟩ := hhead.exists_loopRun
  have havail : s.avail = s.bufLen - s.off := rfl
  exact ⟨t, hrun.passLoop_eq hhead (by omega), hrun.control, hrun.passLoop_eq hhead (by omega)⟩

/-- `FEED` is the run of its loop between the entry and `F.COMPACT`. -/
theorem LoopRun.exec_feed {s t : State} {c : Bytes} (hrun : LoopRun (s.enterFeed c) t) (hb : BufOk s) :
    exec (.feed c) s = .next (t.compact.goto .rest) := by
  have henough : (s.enterFeed c).avail < (s.enterFeed c).bufLen + 1 := by rw [State.avail]; omega
  rw [exec, execFeed, hrun.passLoop_eq (enterFeed_atLoopHead hb c) henough, andThen_next]

/-! ### A stall that has been met before -/

/-- At a stall with the pending frame's length already in `FL` an iteration only ends the loop (R92, R96). -/
theorem passIteration_of_stalled {s : State} (hb : BufOk s) (ho : s.off ≤ s.bufLen)
    (hst : isStalled s.window = true) (hfl : 6 ≤ s.avail → flOf s.fl s.window) :
    passIteration s = .next (s.goto .compact) := by
  have hlen := window_length hb
  rcases (isStalled_iff _).1 hst with h6 | ⟨len, more, hw, h6, hl⟩
  · exact passIteration_of_short hb ho (hlen ▸ h6)
  · have hsame : frameLength9 len = s.fl := by
      have := hfl (hlen ▸ h6)
      rw [hw] at this
      exact Option.some.inj this
    rw [passIteration_of_incomplete hb ho hw (hlen ▸ h6) (hlen ▸ hl), hsame]
    rfl

/-- With nothing before `OFF` the move of `F.COMPACT` moves nothing. -/
theorem compact_of_off_eq_zero {s : State} (hb : BufOk s) (ho : s.off = 0) : s.compact = s := by
  have hbuf : Memory.moveDown s.buf s.off s.bufLen = s.buf := by
    rw [← State.compact_buf, compact_buf hb, State.window, ho, List.drop_zero, ← hb.1]
  rw [State.compact, hbuf]
  cases s
  cases ho
  rfl

theorem AtRest.rest {s : State} (h : AtRest s) :
    s.off = 0 ∧ isStalled s.bytes = true ∧ (6 ≤ s.bufLen → flOf s.fl s.bytes) := by
  obtain ⟨hinv, hc⟩ := h
  simpa only [CtlOk, hc] using hinv.control

/-- Settles O19: at rest the pass stands at the stall it ended with. -/
theorem emptyFeedIsANoOp : Obligations.EmptyFeedIsANoOp := by
  intro s h
  obtain ⟨ho, hst, hfl⟩ := h.rest
  have hb := h.1.buffer
  have hwindow : s.window = s.bytes := by rw [State.window, ho, List.drop_zero]
  have havail : s.avail = s.bufLen := by rw [State.avail, ho, Nat.sub_zero]
  have henter : s.enterFeed [] = s.goto .scan := by
    cases s
    cases ho
    rfl
  have hit : passIteration (s.goto .scan) = .next (s.goto .compact) := by
    refine passIteration_of_stalled (s := s.goto .scan) hb h.1.offset ?_ ?_
    · exact hwindow ▸ hst
    · intro h6
      have := hfl (havail ▸ h6)
      exact hwindow ▸ this
  have hrun : LoopRun (s.enterFeed []) (s.goto .compact) := henter ▸ .ends hit rfl
  have hcompact : (s.goto .compact).compact = s.goto .compact := compact_of_off_eq_zero hb ho
  have hrest : s.goto .rest = s := by
    obtain ⟨-, hc⟩ := h
    cases s
    cases hc
    rfl
  rw [hrun.exec_feed hb, hcompact]
  exact congrArg _ hrest

/-! ### The same move from two states -/

theorem passIteration_of_frame {s : State} {len pid : Byte} {tail rest : Bytes} (hb : BufOk s)
    (ho : s.off ≤ s.bufLen) (hw : s.window = frameBytes len pid tail ++ rest) (h6 : 6 ≤ s.window.length)
    (ht : tail.length = len.toNat + 1) :
    passIteration s = processFrame (frameBytes len pid tail) (s.afterEmit len pid tail) := by
  rcases iteration_cases s hb ho with
    ⟨h, -⟩ | ⟨a, b, _, hw', -, hm, -⟩ | ⟨len', _, hw', -, hl, -⟩ | ⟨len', pid', tail', rest', hw', -, ht', hit⟩
  case inl => omega
  case inr.inl =>
    cases hw.symm.trans hw'
    exact absurd ⟨rfl, rfl⟩ hm
  case inr.inr.inl =>
    cases hw.symm.trans hw'
    rw [hw, List.length_append, frameBytes_length, ht, frameLength_eq] at hl
    omega
  case inr.inr.inr =>
    obtain ⟨hsame, -⟩ := frame_append_inj ((isFrame_iff _).2 ⟨len', pid', tail', rfl, ht'⟩)
      ((isFrame_iff _).2 ⟨len, pid, tail, rfl, ht⟩) (hw'.symm.trans hw)
    cases hsame
    exact hit

/-- One iteration has made the same move of the pass from `s` to `t` and from `s'` to `t'`, each over its own
buffer and registers. -/
inductive SameMove (s s' : State) : State → State → Prop where
  /-- `F.SHORT` ends the loop (R92). -/
  | short : SameMove s s' (s.goto .compact) (s'.goto .compact)
  /-- `F.SKIP` (R94). -/
  | skip : SameMove s s' ({ s with off := s.off + 1 }.goto .scan) ({ s' with off := s'.off + 1 }.goto .scan)
  /-- `F.LEN`, and `F.WAIT` ends the loop (R95, R96). -/
  | wait (len : Byte) : SameMove s s' ({ s with fl := frameLength9 len }.goto .compact)
      ({ s' with fl := frameLength9 len }.goto .compact)
  /-- `F.LEN`, `F.EMIT` and `PROCESS` (R95, R97, 42_response.md R160). -/
  | emit {len pid : Byte} {tail : Bytes} {t t' : State} :
      processFrame (frameBytes len pid tail) (s.afterEmit len pid tail) = .next t →
      processFrame (frameBytes len pid tail) (s'.afterEmit len pid tail) = .next t' → SameMove s s' t t'

/-- An iteration sees only the bytes from `OFF` on, and of these, unless it stalls, only the ones it needs: where
`c` follows the bytes of `s`, the move is the same. -/
theorem exists_sameMove {s s' : State} {c : Bytes} (hs : AtLoopHead s) (hs' : AtLoopHead s')
    (hwindow : s'.window = s.window ++ c) (hst : isStalled s.window = true → c = []) :
    ∃ t t', passIteration s = .next t ∧ passIteration s' = .next t' ∧ SameMove s s' t t' ∧
      t'.window = t.window ++ c := by
  have havail : s'.avail = s.window.length + c.length := by
    rw [← window_length hs'.buffer, hwindow, List.length_append]
  rcases iteration_cases s hs.buffer hs.offset with
    ⟨h6, hit⟩ | ⟨a, b, more, hw, h6, hm, hit⟩ | ⟨len, more, hw, h6, hl, hit⟩ | ⟨len, pid, tail, rest, hw, h6, ht, hit⟩
  case inl =>
    obtain rfl := hst ((isStalled_iff _).2 (.inl h6))
    exact ⟨_, _, hit, passIteration_of_short hs'.buffer hs'.offset (by rw [havail]; exact h6), .short, hwindow⟩
  case inr.inl =>
    have hw' : s'.window = a :: (b :: more ++ c) := by rw [hwindow, hw, List.cons_append]
    have hm' : ¬ startsSync s'.window := by simpa [hw', startsSync] using hm
    refine ⟨_, _, hit, passIteration_of_mismatch hs'.buffer hs'.offset (by omega) hm', .skip, ?_⟩
    have hnext : State.window ({ s with off := s.off + 1 }.goto .scan) = b :: more := window_of_skip hw rfl rfl
    rw [hnext]
    exact window_of_skip hw' rfl rfl
  case inr.inr.inl =>
    obtain rfl := hst ((isStalled_iff _).2 (.inr ⟨len, more, hw, h6, hl⟩))
    have hw' : s'.window = syncByte :: syncByte :: len :: more := by rw [hwindow, List.append_nil, hw]
    rw [List.length_nil, Nat.add_zero] at havail
    exact ⟨_, _, hit, passIteration_of_incomplete hs'.buffer hs'.offset hw' (havail ▸ h6) (havail ▸ hl), .wait len,
      hwindow⟩
  case inr.inr.inr =>
    have hw' : s'.window = frameBytes len pid tail ++ (rest ++ c) := by rw [hwindow, hw, List.append_assoc]
    have h6' : 6 ≤ s'.window.length := by rw [hwindow, List.length_append]; omega
    obtain ⟨t, hp, hemits⟩ := emitsFrame_processFrame hw h6 ht
    obtain ⟨t', hp', hemits'⟩ := emitsFrame_processFrame hw' h6' ht
    refine ⟨t, t', hit.trans hp, (passIteration_of_frame hs'.buffer hs'.offset hw' h6' ht).trans hp', .emit hp hp', ?_⟩
    rw [hemits.window_next, hemits'.window_next]

end Sys2Proof.Machine
end

section
/-! PROOF. Fragmentation invariance (spec/40_framer.md R105): the loop makes the same moves over a buffer with more
bytes at its end, until it stalls where it would have stalled without them, and over a buffer from which the bytes
before `OFF` are gone. -/

namespace Sys2Proof.Machine

/-! ### The same registers over another buffer -/

/-- The state with another buffer and scan offset. -/
def State.withBuffer (s : State) (m : Memory) (len off : Nat) : State := { s with buf := m, bufLen := len, off := off }

theorem setFields_withBuffer (s : State) (m : Memory) (l o : Nat) (p : Byte) (f : Bytes) :
    (s.withBuffer m l o).setFields p f = (s.setFields p f).withBuffer m l o := by
  unfold State.setFields
  split <;> rfl

theorem nowTaken_withBuffer (s : State) (m : Memory) (l o : Nat) :
    (s.withBuffer m l o).nowTaken = s.nowTaken.withBuffer m l o := by
  simp only [nowTaken_eq]
  rfl

theorem assemble_withBuffer (s : State) (m : Memory) (l o : Nat) (covered : Bytes) :
    (s.withBuffer m l o).assemble covered = (s.assemble covered).withBuffer m l o := rfl

theorem buildTimecal_withBuffer (s : State) (m : Memory) (l o : Nat) (a b : Byte) (now : Now) :
    (s.withBuffer m l o).buildTimecal a b now = (s.buildTimecal a b now).withBuffer m l o := by
  have hdraw : (s.withBuffer m l o).drawTime now = (s.drawTime now).withBuffer m l o := by
    simp only [drawTime_eq]
    rfl
  have htime : (s.withBuffer m l o).timeBytes now = s.timeBytes now := rfl
  rw [State.buildTimecal, State.buildTimecal, hdraw, htime, assemble_withBuffer]

theorem buildState_withBuffer (s : State) (m : Memory) (l o : Nat) (p a b : Byte) (now : Now) :
    (s.withBuffer m l o).buildState p a b now = (s.buildState p a b now).withBuffer m l o := by
  unfold State.buildState
  split_ifs
  · exact buildTimecal_withBuffer s m l o a b now
  · exact assemble_withBuffer s m l o (ackCovered p a b)
  · rfl

theorem emitOptional_withBuffer (s : State) (m : Memory) (l o : Nat) (r : Option Bytes) :
    (s.withBuffer m l o).emitOptional r = (s.emitOptional r).withBuffer m l o := by
  cases r <;> rfl

/-- `PROCESS` neither reads nor writes the buffer (42_response.md R160). -/
theorem processFrame_withBuffer (f : Bytes) (s : State) (m : Memory) (l o : Nat) :
    processFrame f (s.withBuffer m l o) = andThen (processFrame f s) fun t => .next (t.withBuffer m l o) := by
  rw [processFrame, processFrame, andThen_assoc]
  unfold extractFields
  split
  next p _ =>
    rw [andThen_next, andThen_next, setFields_withBuffer]
    generalize s.setFields p f = s1
    have hsample :
        (if (s1.withBuffer m l o).pid = timecalId then (s1.withBuffer m l o).nowTaken else s1.withBuffer m l o) =
          (if s1.pid = timecalId then s1.nowTaken else s1).withBuffer m l o := by
      rw [nowTaken_withBuffer]
      exact (apply_ite (State.withBuffer · m l o) (s1.pid = timecalId) _ _).symm
    by_cases hv : s1.serValid = true
    · have hv' : (s1.withBuffer m l o).serValid = true := hv
      simp only [if_pos hv, if_pos hv', hsample, buildState_withBuffer, andThen_next]
      exact congrArg _ (emitOptional_withBuffer _ m l o _)
    · have hv' : ¬ (s1.withBuffer m l o).serValid = true := hv
      rw [if_neg hv, if_neg hv', andThen_next]
  next => rfl

/-! ### More bytes after the ones scanned -/

/-- The state `s'` is `s` over another buffer, which holds from `OFF` on the bytes that `s` has there and then
the bytes `c`. -/
structure Extends (s s' : State) (c : Bytes) : Prop where
  registers : s' = s.withBuffer s'.buf s'.bufLen s'.off
  window : s'.window = s.window ++ c

theorem Extends.control {s s' : State} {c : Bytes} (h : Extends s s' c) : s'.ctl = s.ctl := by
  rw [h.registers]
  rfl

theorem SameMove.withBuffer {s t t' : State} {m : Memory} {l o : Nat} (h : SameMove s (s.withBuffer m l o) t t') :
    t' = t.withBuffer t'.buf t'.bufLen t'.off := by
  cases h with
  | short | skip | wait => rfl
  | @emit len pid tail _ _ hp hp' =>
    change processFrame _ ((s.afterEmit len pid tail).withBuffer m l (o + frameLength len)) = _ at hp'
    rw [processFrame_withBuffer, hp, andThen_next] at hp'
    obtain rfl := Host.Outcome.next.inj hp'
    rfl

/-- Iterations over a buffer and over one that extends it agree, but for a stall, which the bytes that follow may
lift. -/
theorem Extends.passIteration {s s' t : State} {c : Bytes} (h : Extends s s' c) (hs : AtLoopHead s)
    (hs' : AtLoopHead s') (hst : isStalled s.window = true → c = []) (hit : passIteration s = .next t) :
    ∃ t', passIteration s' = .next t' ∧ Extends t t' c := by
  obtain ⟨_, t', hit₁, hit', hmove, hwindow⟩ := exists_sameMove hs hs' h.window hst
  obtain rfl := Host.Outcome.next.inj (hit.symm.trans hit₁)
  obtain ⟨m, l, o, rfl⟩ : ∃ m l o, s' = s.withBuffer m l o := ⟨_, _, _, h.registers⟩
  exact ⟨t', hit', hmove.withBuffer, hwindow⟩

/-- The whole loop agrees over two buffers that hold the same bytes from `OFF` on. -/
theorem LoopRun.shift {s t : State} (hrun : LoopRun s t) (hs : AtLoopHead s) {s' : State} (hs' : AtLoopHead s')
    (h : Extends s s' []) : ∃ t', LoopRun s' t' ∧ Extends t t' [] := by
  induction hrun generalizing s' with
  | ends hit hc =>
    obtain ⟨t', hit', hext⟩ := h.passIteration hs hs' (fun _ => rfl) hit
    exact ⟨t', .ends hit' (hext.control.trans hc), hext⟩
  | continues hit ht _ ih =>
    obtain ⟨t', hit', hext⟩ := h.passIteration hs hs' (fun _ => rfl) hit
    obtain ⟨ht', -⟩ := hs'.of_passIteration hit' (hext.control.trans ht.control)
    obtain ⟨u', hrun', hext'⟩ := ih ht ht' hext
    exact ⟨u', .continues hit' ht' hrun', hext'⟩

/-! ### The stall that the bytes that follow may lift -/

theorem LoopRun.congr {s s' t : State} (h : Machine.passIteration s = Machine.passIteration s')
    (hrun : LoopRun s t) : LoopRun s' t := by
  cases hrun with
  | ends hit hc => exact .ends (h ▸ hit) hc
  | continues hit ht hrun => exact .continues (h ▸ hit) ht hrun

/-- Where a frame has begun, `F.LEN` overwrites `FL` before anything reads it (R95). -/
theorem passIteration_of_startsSync {s : State} (hs : AtLoopHead s) (h6 : 6 ≤ s.avail)
    (hsync : startsSync s.window) (fl : Word9) : passIteration { s with fl := fl } = passIteration s := by
  have hb : BufOk { s with fl := fl } := bufOk_of_eq hs.buffer rfl rfl
  have ho : State.off { s with fl := fl } ≤ State.bufLen { s with fl := fl } := hs.offset
  have hlen := window_length hs.buffer
  rcases decode_cases s.window with
    ⟨h, -⟩ | ⟨a, b, more, hw, -, hm, -⟩ | ⟨len, more, hw, -, hl, -⟩ | ⟨len, pid, tail, rest, hw, h6', ht, -⟩
  · omega
  · exact absurd (by simpa [startsSync, hw] using hsync) hm
  · rw [passIteration_of_incomplete hb ho hw h6 (hlen ▸ hl),
      passIteration_of_incomplete hs.buffer hs.offset hw h6 (hlen ▸ hl)]
  · rw [passIteration_of_frame hb ho hw h6' ht, passIteration_of_frame hs.buffer hs.offset hw h6' ht]
    rfl

/-- What a stall has written into `FL` makes no difference to the iteration that more bytes allow. -/
theorem Extends.passIteration_after_stall {s s' t : State} {c : Bytes} (h : Extends s s' c) (hs : AtLoopHead s)
    (hs' : AtLoopHead s') (hit : Machine.passIteration s = .next t) (hc : t.ctl = .compact) :
    Extends (t.goto .scan) { s' with fl := t.fl } c ∧
      Machine.passIteration { s' with fl := t.fl } = Machine.passIteration s' := by
  obtain ⟨fl, rfl, hfl⟩ := hs.eq_of_ends hit hc
  have hscan : ({ s with fl := fl }.goto .compact).goto .scan = { s with fl := fl } := by
    rw [← hs.control]
    rfl
  refine ⟨⟨?_, h.window⟩, ?_⟩
  · rw [hscan, h.registers]
    rfl
  · rcases hfl with rfl | ⟨h6, hsync⟩
    · have hsame : { s' with fl := s.fl } = s' := by
        rw [h.registers]
        rfl
      exact congrArg Machine.passIteration hsame
    · have hlen : s'.avail = s.window.length + c.length := by
        rw [← window_length hs'.buffer, h.window, List.length_append]
      rw [← window_length hs.buffer] at h6
      refine passIteration_of_startsSync hs' (by omega) ?_ fl
      rw [h.window]
      obtain ⟨h0, h1⟩ := hsync
      exact ⟨by rw [List.getElem?_append_left (by omega), h0], by rw [List.getElem?_append_left (by omega), h1]⟩

theorem AtLoopHead.isStalled_eq_false {s t : State} (hs : AtLoopHead s) (hit : passIteration s = .next t)
    (hc : t.ctl = .scan) : isStalled s.window = false := by
  rcases passIteration_cases hs.buffer hs.offset with
    ⟨fl, hit', -⟩ | ⟨a, more, -, -, h6, hm⟩ | ⟨f, rest, _, -, hemits⟩
  · obtain rfl := Host.Outcome.next.inj (hit'.symm.trans hit)
    cases hc
  · exact isStalled_of_not_startsSync h6 hm
  · rw [hemits.window]
    exact isStalled_frame_append hemits.frame hemits.enough

/-- The loop over a buffer that is extended: where the loop stalls without the bytes `c`, it goes on with them. -/
theorem LoopRun.extend {s t : State} (hrun : LoopRun s t) (hs : AtLoopHead s) {s' : State} {c : Bytes}
    (hs' : AtLoopHead s') (h : Extends s s' c) :
    ∃ t', AtLoopHead t' ∧ Extends (t.goto .scan) t' c ∧ ∀ u, LoopRun t' u → LoopRun s' u := by
  induction hrun generalizing s' with
  | @ends _ t hit hc =>
    obtain ⟨hext, hsame⟩ := h.passIteration_after_stall hs hs' hit hc
    have hhead : AtLoopHead { s' with fl := t.fl } := ⟨bufOk_of_eq hs'.buffer rfl rfl, hs'.offset, hs'.control⟩
    exact ⟨{ s' with fl := t.fl }, hhead, hext, fun u hu => hu.congr hsame⟩
  | continues hit ht _ ih =>
    have hmoves := hs.isStalled_eq_false hit ht.control
    obtain ⟨t', hit', hext⟩ := h.passIteration hs hs' (by simp [hmoves]) hit
    obtain ⟨ht', -⟩ := hs'.of_passIteration hit' (hext.control.trans ht.control)
    obtain ⟨u', hu', hext', hback⟩ := ih ht ht' hext
    exact ⟨u', hu', hext', fun v hv => .continues hit' ht' (hback v hv)⟩

/-! ### Two `FEED` operations are one -/

theorem Extends.compact_eq {t t' : State} (h : Extends t t' []) (ht : BufOk t) (ht' : BufOk t') :
    t'.compact = t.compact := by
  have hwindow : t'.window = t.window := by rw [h.window, List.append_nil]
  have hbuf : t'.compact.buf = t.compact.buf := by rw [compact_buf ht', compact_buf ht, hwindow]
  have hlen : t'.compact.bufLen = t.compact.bufLen := by
    show t'.avail = t.avail
    rw [← window_length ht', ← window_length ht, hwindow]
  calc t'.compact = t.compact.withBuffer t'.compact.buf t'.compact.bufLen 0 := by
        rw [h.registers]
        rfl
    _ = t.compact := by
        rw [hbuf, hlen]
        rfl

theorem feed_feed {s t : State} {c d : Bytes} (h : AtRest s) (hfeed : exec (.feed c) s = .next t) (ht : BufOk t) :
    exec (.feed d) t = exec (.feed (c ++ d)) s := by
  have hb := h.1.buffer
  have hhead := enterFeed_atLoopHead hb c
  have hhead' := enterFeed_atLoopHead hb (c ++ d)
  obtain ⟨u, hu⟩ := hhead.exists_loopRun
  obtain rfl := Host.Outcome.next.inj ((hu.exec_feed hb).symm.trans hfeed)
  have hextended : Extends (s.enterFeed c) (s.enterFeed (c ++ d)) d :=
    ⟨rfl, by rw [enterFeed_window hb, enterFeed_window hb, List.append_assoc]⟩
  obtain ⟨v, hv, hext, hback⟩ := hu.extend hhead hhead' hextended
  obtain ⟨w, hw⟩ := hv.exists_loopRun
  have hmoved : Extends v ((u.compact.goto .rest).enterFeed d) [] := by
    have hbytes : (u.compact.goto .rest).bytes = u.window := compact_bytes (hu.bufOk hhead)
    refine ⟨?_, ?_⟩
    · rw [hext.registers]
      rfl
    · rw [List.append_nil, enterFeed_window ht, hbytes, hext.window]
      rfl
  obtain ⟨w', hw', hext'⟩ := hw.shift hv (enterFeed_atLoopHead ht d) hmoved
  rw [hw'.exec_feed ht, (hback w hw).exec_feed hb,
    hext'.compact_eq (hw.bufOk hv) (hw'.bufOk (enterFeed_atLoopHead ht d))]

/-- Settles O18: by induction on the chunks, each of which is fed before the ones that follow it. -/
theorem fragmentationInvariance : Obligations.FragmentationInvariance := by
  intro s chunks h
  induction chunks generalizing s with
  | nil => exact (emptyFeedIsANoOp s h).symm
  | cons c cs ih =>
    obtain ⟨t, _, _, hfeed, ht, -⟩ := feedRealisesThePass s c h
    rw [feedAll, hfeed, andThen_next, ih t ht, feed_feed h hfeed ht.1.buffer, List.flatten_cons]

end Sys2Proof.Machine
end

section
/-! PROOF. Every step keeps the invariant (spec/10_state.md R20 to R28; spec/40_framer.md R90 to R97): the
operations applied at rest write only registers, or empty the block, and each step inside a pass establishes what
its next control position asks. With it, what the invariant says at rest holds over every run (R24, R25). -/

namespace Sys2Proof.Machine

/-! ### Operations that write only registers -/

/-- `RSP` has 16 bytes, and its length is one of the three that R28 admits. -/
def RspOk (s : State) : Prop := s.rsp.length = 16 ∧ (s.rspLen = 0 ∨ s.rspLen = 10 ∨ s.rspLen = 16)

/-- From `s` to `t` nothing has changed that a clause of a control position reads, nor the platform's queue, and
the response registers are still as R28 has them. -/
structure WritesRegisters (s t : State) : Prop where
  buf : t.buf = s.buf
  bufLen : t.bufLen = s.bufLen
  off : t.off = s.off
  fl : t.fl = s.fl
  control : t.ctl = s.ctl
  pending : t.pending = s.pending
  rsp : RspOk s → RspOk t

theorem WritesRegisters.ctlOk {s t : State} (h : WritesRegisters s t) (hs : CtlOk s) : CtlOk t := by
  simp only [CtlOk, State.avail, State.window, State.bytes, h.buf, h.bufLen, h.off, h.fl, h.control] at hs ⊢
  exact hs

theorem WritesRegisters.stateInv {s t : State} (h : WritesRegisters s t) (hs : StateInv s) : StateInv t where
  buffer := bufOk_of_eq hs.buffer h.buf h.bufLen
  offset := by rw [h.off, h.bufLen]; exact hs.offset
  rspSize := (h.rsp ⟨hs.rspSize, hs.rspLength⟩).1
  rspLength := (h.rsp ⟨hs.rspSize, hs.rspLength⟩).2
  control := h.ctlOk hs.control
  platform := by rw [h.pending]; exact hs.platform

theorem rspOk_assemble {s : State} {m : Bytes} (h : RspOk s) (hm : m.length = 4 ∨ m.length = 10) :
    RspOk (s.assemble m) := by
  have hlen := sealResponse_length m
  refine ⟨writeRsp_length (bs := sealResponse m) h.1 (by omega), ?_⟩
  rw [State.assemble_rspLen]
  omega

theorem writesRegisters_buildAck (s : State) (p a b : Byte) : WritesRegisters s (s.buildAck p a b) :=
  ⟨rfl, rfl, rfl, rfl, rfl, rfl, fun h => rspOk_assemble h (.inl rfl)⟩

theorem writesRegisters_buildTimecal (s : State) (a b : Byte) (now : Now) :
    WritesRegisters s (s.buildTimecal a b now) := by
  have hlen : (timecalCovered (s.timeBytes now) a b).length = 10 := by
    simp [timecalCovered, State.timeBytes_length]
  rw [State.buildTimecal, drawTime_eq]
  exact ⟨rfl, rfl, rfl, rfl, rfl, rfl, fun h => rspOk_assemble h (.inr hlen)⟩

theorem writesRegisters_buildState (s : State) (p a b : Byte) (now : Now) :
    WritesRegisters s (s.buildState p a b now) := by
  rcases buildState_cases s p a b now with ⟨-, hb⟩ | ⟨-, -, hb⟩ | ⟨-, -, hb⟩
  all_goals rw [hb]
  · exact writesRegisters_buildTimecal s a b now
  · exact writesRegisters_buildAck s p a b
  · exact ⟨rfl, rfl, rfl, rfl, rfl, rfl, fun h => ⟨h.1, .inl rfl⟩⟩

theorem WritesRegisters.handBack {s t : State} (h : WritesRegisters s t) (r : Result) :
    WritesRegisters s (t.handBack r) :=
  ⟨h.buf, h.bufLen, h.off, h.fl, h.control, h.pending, h.rsp⟩

theorem writesRegisters_setFields (s : State) (p : Byte) (f : Bytes) : WritesRegisters s (s.setFields p f) := by
  unfold State.setFields
  split
  all_goals exact ⟨rfl, rfl, rfl, rfl, rfl, rfl, id⟩

theorem writesRegisters_extract {f : Bytes} (hf : isFrame f = true) {s t : State}
    (h : exec (.extract f) s = .next t) : WritesRegisters s t := by
  obtain ⟨len, pid, tail, rfl, -⟩ := (isFrame_iff f).1 hf
  obtain rfl := Host.Outcome.next.inj ((extractFields_frameBytes len pid tail s).symm.trans h)
  exact writesRegisters_setFields s pid _

theorem writesRegisters_process {f : Bytes} (hf : isFrame f = true) {s t : State}
    (h : exec (.process f) s = .next t) : WritesRegisters s t := by
  obtain ⟨len, pid, tail, rfl, -⟩ := (isFrame_iff f).1 hf
  obtain ⟨u, hexec, hbuf, hbufLen, hoff, hfl, hctl, hpending, -, hsize, hlength, -⟩ :=
    processFrame_next len pid tail s
  obtain rfl := Host.Outcome.next.inj (hexec.symm.trans h)
  exact ⟨hbuf, hbufLen, hoff, hfl, hctl, hpending, fun h => ⟨hsize h.1, hlength h.2⟩⟩

/-- What the platform applies, other than `RESET` and what it feeds, writes only registers (log 21). -/
theorem writesRegisters_exec {i : Instr} {s t : State} (hmay : Instr.platformMay i = true)
    (hfed : fedBytes i = none) (hreset : i ≠ .reset) (h : exec i s = .next t) : WritesRegisters s t := by
  cases i with
  | login | heartbeat | addrCn | respOnline | gps | alarm | id27 | lbsMulti | addrReq | onlineCmd | timeCal
  | infoXfer | addrEn | gpsA0 | lbs4g | fenceAlarm | other | nonsync | feed => cases hfed
  | fAppend | fShort | fSkip | fLen | fWait | fEmit | fCompact => cases hmay
  | reset => exact absurd rfl hreset
  | ack p a b =>
    obtain rfl := Host.Outcome.next.inj ((exec_ack p a b s).symm.trans h)
    exact (writesRegisters_buildAck s p a b).handBack _
  | timecalRsp a b now =>
    obtain rfl := Host.Outcome.next.inj ((exec_timecalRsp a b now s).symm.trans h)
    exact (writesRegisters_buildTimecal s a b now).handBack _
  | build p a b now =>
    obtain rfl := Host.Outcome.next.inj ((exec_build p a b now s).symm.trans h)
    exact (writesRegisters_buildState s p a b now).handBack _
  | extract f => exact writesRegisters_extract hmay h
  | process f => exact writesRegisters_process hmay h
  | crc16 | crcInit | crcByte | crcFinal =>
    obtain rfl := Host.Outcome.next.inj h
    exact ⟨rfl, rfl, rfl, rfl, rfl, rfl, id⟩

/-! ### `RESET` -/

/-- The state that `RESET` leaves (70_reset_and_hazards.md R225). -/
def State.afterReset (s : State) : State :=
  { s with
    buf := [], bufLen := 0, off := 0, fl := Config.resetFl, crc := Config.resetCrc,
    rsp := (List.range 16).map Config.resetRspByte, rspLen := [0, 10, 16].getD Config.resetRspLenIndex.val 0,
    pid := Config.resetPid, ser0 := Config.resetSer0, ser1 := Config.resetSer1,
    serValid := Config.resetSerValid, ctl := .rest }

theorem exec_reset (s : State) : exec .reset s = .next s.afterReset := rfl

/-- An empty block at rest waits for six bytes (10_state.md R25). -/
theorem ctlOk_of_empty {s : State} (hc : s.ctl = .rest) (ho : s.off = 0) (hbuf : s.buf = []) (hlen : s.bufLen = 0) :
    CtlOk s := by
  have hbytes : s.bytes = [] := by rw [State.bytes, hbuf]; rfl
  simp only [CtlOk, hc, ho, hbytes, hlen]
  exact ⟨trivial, (isStalled_iff _).2 (.inl (by simp)), fun h => absurd h (by omega)⟩

theorem bufOk_of_empty {s : State} (hbuf : s.buf = []) (hlen : s.bufLen = 0) : BufOk s := by
  have hbytes : s.bytes = [] := by rw [State.bytes, hbuf]; rfl
  rw [BufOk, hbytes, hbuf, hlen]
  exact ⟨rfl, rfl⟩

theorem getD_rspLengths (i : Fin 3) :
    [0, 10, 16].getD i.val 0 = 0 ∨ [0, 10, 16].getD i.val 0 = 10 ∨ [0, 10, 16].getD i.val 0 = 16 := by
  revert i
  decide

theorem StateInv.afterReset {s : State} (h : ∀ i ∈ s.pending, Instr.platformMay i = true) :
    StateInv s.afterReset where
  buffer := bufOk_of_empty rfl rfl
  offset := Nat.le_refl 0
  rspSize := by rw [State.afterReset, List.length_map, List.length_range]
  rspLength := getD_rspLengths Config.resetRspLenIndex
  control := ctlOk_of_empty rfl rfl rfl rfl
  platform := h

/-- Settles O11: the block is empty, and the queue is what the platform may queue. -/
theorem resetStateHasTheInvariant : Obligations.ResetStateHasTheInvariant := by
  have queued (ops : List Instr) (times : List Now) (h : ∀ i ∈ ops, Instr.platformMay i = true) :
      StateInv { State.reset with pending := ops, nowPort := times } :=
    ⟨bufOk_of_empty rfl rfl, Nat.le_refl 0, List.length_replicate, .inl rfl, ctlOk_of_empty rfl rfl rfl rfl, h⟩
  exact ⟨queued [] [] nofun, queued⟩

/-! ### The step at rest -/

theorem StateInv.stepRest {s t : State} (h : StateInv s) (hstep : stepRest s = .next t) :
    StateInv t := by
  unfold Machine.stepRest at hstep
  split at hstep
  next =>
    obtain rfl := Host.Outcome.next.inj hstep
    exact h
  next i ops hp =>
    have hplatform : ∀ j ∈ i :: ops, Instr.platformMay j = true := hp ▸ h.platform
    have htaken : StateInv { s with pending := ops } :=
      ⟨bufOk_of_eq h.buffer rfl rfl, h.offset, h.rspSize, h.rspLength, h.control,
        fun j hj => hplatform j (List.mem_cons_of_mem i hj)⟩
    split at hstep
    next c _ =>
      obtain rfl := Host.Outcome.next.inj hstep
      exact htaken.enterFeed c
    next hfed =>
      by_cases hreset : i = .reset
      · subst hreset
        obtain rfl := Host.Outcome.next.inj hstep
        exact .afterReset htaken.platform
      · exact (writesRegisters_exec (hplatform i List.mem_cons_self) hfed hreset hstep).stateInv htaken

/-! ### The steps inside a pass -/

theorem StateInv.goto {s : State} (h : StateInv s) {c : Ctl} (hc : CtlOk (s.goto c)) : StateInv (s.goto c) :=
  ⟨h.buffer, h.offset, h.rspSize, h.rspLength, hc, h.platform⟩

theorem StateInv.goto_scan {s : State} (h : StateInv s) : StateInv (s.goto .scan) := h.goto trivial

theorem StateInv.passIteration {s t : State} (h : StateInv s) (hit : passIteration s = .next t) : StateInv t := by
  rcases passIteration_cases h.buffer h.offset with
    ⟨fl, hit', hst, hfl⟩ | ⟨a, more, hit', hw, -, -⟩ | ⟨f, rest, u, hit', hemits⟩
  all_goals obtain rfl := Host.Outcome.next.inj (hit'.symm.trans hit)
  · exact h.goto_compact hst hfl
  · have hlen := window_length h.buffer
    rw [hw, List.length_cons, State.avail] at hlen
    exact h.skip (by omega)
  · exact hemits.stateInv h

theorem StateInv.fShort {s t : State} (h : StateInv s) (hexec : exec .fShort s = .next t) : StateInv t := by
  obtain rfl := Host.Outcome.next.inj hexec
  by_cases hs : s.isShort = true
  · have h6 := (isShort_iff s).1 hs
    rw [if_pos hs]
    refine h.goto ⟨(isStalled_iff _).2 (.inl ?_), fun h6' => ?_⟩
    · exact (window_length h.buffer).trans_lt h6
    · exact absurd h6 (Nat.not_lt.2 h6')
  · rw [if_neg hs]
    exact h.goto (Nat.not_lt.1 fun h6 => hs ((isShort_iff s).2 h6))

theorem StateInv.fSkip {s t : State} (h : StateInv s) (h6 : 6 ≤ s.avail) (hexec : exec .fSkip s = .next t) :
    StateInv t := by
  obtain ⟨a, b, len, more, hw⟩ := exists_window_eq_of_six h.buffer h6
  obtain rfl := Host.Outcome.next.inj ((execFSkip_window h.buffer hw).symm.trans hexec)
  by_cases hm : a = syncByte ∧ b = syncByte
  · rw [if_pos hm]
    obtain ⟨rfl, rfl⟩ := hm
    refine h.goto ⟨h6, ?_⟩
    show startsSync s.window
    rw [hw]
    exact ⟨rfl, rfl⟩
  · rw [if_neg hm]
    rw [State.avail] at h6
    exact h.skip (by omega)

theorem StateInv.fLen {s t : State} (h : StateInv s) (h6 : 6 ≤ s.avail) (hsync : startsSync s.window)
    (hexec : exec .fLen s = .next t) : StateInv t := by
  obtain ⟨a, b, len, more, hw⟩ := exists_window_eq_of_six h.buffer h6
  obtain rfl := Host.Outcome.next.inj ((execFLen_window h.buffer hw).symm.trans hexec)
  have hfl : flOf (frameLength9 len) s.window := by
    rw [hw]
    rfl
  exact ⟨h.buffer, h.offset, h.rspSize, h.rspLength, ⟨h6, hsync, hfl⟩, h.platform⟩

/-- The frame that has begun at `OFF`, with its length in `FL`. -/
theorem exists_window_eq_of_flOf {s : State} (hsync : startsSync s.window) (hfl : flOf s.fl s.window) :
    ∃ len more, s.window = syncByte :: syncByte :: len :: more ∧ s.fl.toNat = frameLength len := by
  obtain ⟨h0, h1⟩ := hsync
  match hw : s.window with
  | [] => simp [hw] at h0
  | [_] => simp [hw] at h1
  | [_, _] => simp [hw, flOf] at hfl
  | a :: b :: len :: more =>
    simp only [hw, flOf, List.getElem?_cons_zero, List.getElem?_cons_succ, Option.map_some, Option.some.injEq]
      at h0 h1 hfl
    exact ⟨len, more, by rw [h0, h1], by rw [← hfl, frameLength9_toNat]⟩

theorem StateInv.fWait {s t : State} (h : StateInv s) (h6 : 6 ≤ s.avail) (hsync : startsSync s.window)
    (hfl : flOf s.fl s.window) (hexec : exec .fWait s = .next t) : StateInv t := by
  obtain rfl := Host.Outcome.next.inj hexec
  have hlen := window_length h.buffer
  by_cases hi : s.isIncomplete = true
  · obtain ⟨len, more, hw, hlength⟩ := exists_window_eq_of_flOf hsync hfl
    have hlt := (isIncomplete_iff s).1 hi
    rw [if_pos hi]
    exact h.goto ⟨(isStalled_iff _).2 (.inr ⟨len, more, hw, hlen ▸ h6, by show s.window.length < _; omega⟩),
      fun _ => hfl⟩
  · rw [if_neg hi]
    exact h.goto ⟨h6, hsync, hfl, Nat.not_lt.1 fun hlt => hi ((isIncomplete_iff s).2 hlt)⟩

theorem StateInv.fEmit {s t : State} (h : StateInv s) (h6 : 6 ≤ s.avail) (hsync : startsSync s.window)
    (hfl : flOf s.fl s.window) (hfit : s.fl.toNat ≤ s.avail) (hexec : exec .fEmit s = .next t) : StateInv t := by
  have hlen := window_length h.buffer
  obtain ⟨len, more, hw, hlength⟩ := exists_window_eq_of_flOf hsync hfl
  rcases decode_cases s.window with
    ⟨hshort, -⟩ | ⟨a, b, _, hw', -, hm, -⟩ | ⟨len', _, hw', -, hl, -⟩ | ⟨len', pid, tail, rest, hw', -, ht, -⟩
  case inl => omega
  case inr.inl =>
    cases hw.symm.trans hw'
    exact absurd ⟨rfl, rfl⟩ hm
  case inr.inr.inl =>
    cases hw.symm.trans hw'
    omega
  case inr.inr.inr =>
    cases hw.symm.trans hw'
    have hfl' : s.fl.toNat = (frameBytes len pid tail).length := by
      rw [hlength, frameBytes_length, ht, frameLength_eq]
    obtain rfl := Host.Outcome.next.inj ((execFEmit_window h.buffer hw' hfl' h.offset).symm.trans hexec)
    refine ⟨h.buffer, ?_, h.rspSize, h.rspLength, (isFrame_iff _).2 ⟨len, pid, tail, rfl, ht⟩, h.platform⟩
    have havail : s.avail = s.bufLen - s.off := rfl
    show s.off + (frameBytes len pid tail).length ≤ s.bufLen
    omega

theorem StateInv.step_of_scan {s t : State} (h : StateInv s) (hc : s.ctl = .scan) (hstep : step s = .next t) :
    StateInv t := by
  have hhead : AtLoopHead s := ⟨h.buffer, h.offset, hc⟩
  cases hd : decode s.window with
  | instr i left =>
    rw [hhead.step_of_instr hd, ← instructionsAreIterationsOfThePass s i left h hc hd] at hstep
    exact h.passIteration hstep
  | reject r =>
    rw [hhead.step_of_reject hd] at hstep
    exact h.fShort hstep

/-- Settles O10: by the control position, whose clause of the invariant is what the step builds on. -/
theorem stepKeepsTheInvariant : Obligations.StepKeepsTheInvariant := by
  intro s t h hstep
  suffices CtlOk s → step s = .next t → StateInv t from this h.control hstep
  unfold CtlOk step
  cases hc : s.ctl with
  | rest => exact fun _ => h.stepRest
  | scan => exact fun _ hscan => h.step_of_scan hc (by simpa only [step, hc] using hscan)
  | sync => exact h.fSkip
  | len => exact fun ⟨h6, hsync⟩ => h.fLen h6 hsync
  | wait => exact fun ⟨h6, hsync, hfl⟩ => h.fWait h6 hsync hfl
  | emit => exact fun ⟨h6, hsync, hfl, hfit⟩ => h.fEmit h6 hsync hfl hfit
  | process f => exact fun hf hexec => (writesRegisters_process hf hexec).stateInv h.goto_scan
  | compact =>
    rintro - ⟨⟩
    exact (h.compact_atRest hc).1

/-! ### Over every run -/

theorem StateInv.run {s t : State} (h : StateInv s) {n : Nat} (hrun : Sys2Proof.core.run n s = .next t) :
    StateInv t := by
  induction n generalizing s with
  | zero =>
    obtain rfl := Host.Outcome.next.inj hrun
    exact h
  | succ n ih =>
    obtain ⟨u, hu⟩ := noStepStops s h
    rw [core_run_next hu] at hrun
    exact ih (stepKeepsTheInvariant s u h hu) hrun

theorem length_le_of_isStalled {bs : Bytes} (h : isStalled bs = true) : bs.length ≤ 259 := by
  rcases (isStalled_iff bs).1 h with h6 | ⟨len, more, -, -, hl⟩
  · omega
  · have := len.isLt
    rw [frameLength_eq] at hl
    omega

theorem AtRest.bufLen_le {s : State} (h : AtRest s) : s.bufLen ≤ 259 := by
  obtain ⟨-, hst, -⟩ := h.rest
  rw [h.1.buffer.2]
  exact length_le_of_isStalled hst

/-- Settles O13: every step of the run keeps the invariant, and at rest it is R25. -/
theorem betweenOperationsTheBufferHoldsNoCompleteFrame :
    Obligations.BetweenOperationsTheBufferHoldsNoCompleteFrame := by
  intro n ops times t hops hrun hc
  have hrest : AtRest t := ⟨(resetStateHasTheInvariant.2 ops times hops).run hrun, hc⟩
  have hb := hrest.1.buffer
  obtain ⟨ho, hst, -⟩ := hrest.rest
  refine ⟨ho, ?_, fun _ => hrest.bufLen_le⟩
  simp only [read_buf hb]
  rcases (isStalled_iff _).1 hst with h6 | ⟨len, more, hbytes, h6, hl⟩
  · rw [← hb.2] at h6
    exact .inl ⟨by omega, fun ⟨h, _⟩ => by omega⟩
  · rw [← hb.2] at h6 hl
    rw [hbytes]
    exact .inr ⟨⟨h6, rfl, rfl, len, rfl, hl⟩, by omega⟩

/-- Settles O14: a stalled frame lacks at least one of its at most 260 bytes. -/
theorem appendNeverOverflows : Obligations.AppendNeverOverflows := by
  intro s chunkMax c h _ hc
  have hle := h.bufLen_le
  refine ⟨hle, s.append c, rfl, ?_⟩
  rw [State.append_bufLen]
  omega

end Sys2Proof.Machine
end

section
/-! PROOF. `PROCESS` and the frames of 5 bytes (spec/40_framer.md R101; spec/42_response.md R160, R161): each
outcome of `PROCESS` as the answer to the extracted fields. -/

namespace Sys2Proof.Machine

/-! ### `PROCESS` by what it answers -/

section

variable {len pid a b : Byte} {tail : Bytes} {s : State}

theorem processFrame_of_timecal (hser : frameSerial (frameBytes len pid tail) = some (a, b)) (hp : pid = timecalId) :
    processFrame (frameBytes len pid tail) s =
      .next (State.answerTimecal { s with pid := pid, ser0 := a, ser1 := b, serValid := true }) := by
  rw [processFrame_of_serial s hser, if_pos hp, State.answerTimecal, if_pos rfl]
  simp only [buildTimecal_response]

theorem processFrame_of_mem_ackSet (hser : frameSerial (frameBytes len pid tail) = some (a, b)) (ha : pid ∈ ackSet) :
    processFrame (frameBytes len pid tail) s =
      .next (State.answerAck { s with pid := pid, ser0 := a, ser1 := b, serValid := true } pid) := by
  have hp : pid ≠ timecalId := fun h => timecalId_not_mem_ackSet (h ▸ ha)
  rw [processFrame_of_serial s hser, if_neg hp, if_pos ha, State.answerAck, if_pos rfl]
  simp only [buildAck_response]

theorem processFrame_of_unanswered (hser : frameSerial (frameBytes len pid tail) = some (a, b))
    (hp : pid ≠ timecalId) (ha : pid ∉ ackSet) :
    processFrame (frameBytes len pid tail) s =
      .next { s with pid := pid, ser0 := a, ser1 := b, serValid := true, rspLen := 0 } := by
  rw [processFrame_of_serial s hser, if_neg hp, if_neg ha]
  rfl

/-- For a time in range the answer is its packed BCD, and nothing is drawn but the sample (R137). -/
theorem answerTimecal_of_inRange (h : s.serValid = true) (hr : s.nowValue.inRange = true) :
    s.answerTimecal =
      { s.nowTaken with
        crc := crc16 (timecalCovered s.nowValue.bcdBytes s.ser0 s.ser1) ^^^ 0xFFFF,
        rsp := timecalBytes s.nowValue.bcdBytes s.ser0 s.ser1 ++ s.rsp.drop 16, rspLen := 16,
        trace := s.trace ++ [.rsp (timecalBytes s.nowValue.bcdBytes s.ser0 s.ser1)] } := by
  have hanswer := answerTimecal_of_serValid h
  rw [State.drawTime_of_inRange _ hr, State.timeBytes_of_inRange _ hr] at hanswer
  exact hanswer

end

theorem exists_frameSerial_of_six {f : Bytes} (h6 : 6 ≤ f.length) : ∃ a b, frameSerial f = some (a, b) := by
  cases hser : frameSerial f with
  | none => exact absurd ((frameSerial_eq_none_iff f).1 hser) (by omega)
  | some ab => exact ⟨ab.1, ab.2, rfl⟩

/-- Settles O53: a frame of 5 bytes has no serial, and the answer to a longer one is told by its id. -/
theorem processAnswersTheFrame : Obligations.ProcessAnswersTheFrame := by
  intro f s hf
  obtain ⟨len, pid, tail, rfl, -⟩ := (isFrame_iff f).1 hf
  refine ⟨pid, rfl, fun h5 => ?_, fun h6 => ?_⟩
  · have hnone : frameSerial (frameBytes len pid tail) = none := (frameSerial_eq_none_iff _).2 (by omega)
    exact (processFrame_of_none s hnone).trans (congrArg _ (State.setFields_of_none s pid hnone))
  · obtain ⟨a, b, hser⟩ := exists_frameSerial_of_six h6
    obtain ⟨-, ha, hb⟩ := (frameSerial_eq_some_iff _ a b).1 hser
    refine ⟨a, b, ha, hb, fun hack => ?ack, fun hp hr => ?timecal, fun hack hp => ?silent⟩
    case ack =>
      exact (processFrame_of_mem_ackSet hser hack).trans (congrArg _ (answerAck_of_serValid rfl pid))
    case timecal =>
      exact (processFrame_of_timecal hser hp).trans (congrArg _ (answerTimecal_of_inRange rfl hr))
    case silent => exact processFrame_of_unanswered hser hp hack

/-- Settles O54: `EXTRACT` takes the id and the serial, and nothing else of the frame is read. -/
theorem responseDependsOnIdAndSerialOnly : Obligations.ResponseDependsOnIdAndSerialOnly := by
  intro f g s hf hg hid hser
  obtain ⟨len, pid, tail, rfl, -⟩ := (isFrame_iff f).1 hf
  obtain ⟨len', pid', tail', rfl, -⟩ := (isFrame_iff g).1 hg
  obtain rfl : pid = pid' := Option.some.inj hid
  have hfields : s.setFields pid (frameBytes len pid tail) = s.setFields pid (frameBytes len' pid tail') := by
    rw [State.setFields, State.setFields, hser]
  simp only [exec, execProcess, processFrame, extractFields_frameBytes, hfields]

/-! ### Frames of 5 bytes -/

theorem answerAck_of_not_serValid {s : State} (h : s.serValid = false) (p : Byte) : s.answerAck p = s := by
  rw [State.answerAck, h]
  rfl

theorem answerTimecal_of_not_serValid {s : State} (h : s.serValid = false) : s.answerTimecal = s := by
  rw [State.answerTimecal, h]
  rfl

theorem answerNothing_of_not_serValid {s : State} (h : s.serValid = false) : s.answerNothing = s := by
  rw [State.answerNothing, h]
  rfl

/-- A frame of 5 bytes taken: emitted, and without a serial (R101). -/
theorem takeFrame_of_five (s : State) (pid x : Byte) :
    s.takeFrame 0x00 pid [x] =
      { s with
        fl := 5, off := s.off + 5, ctl := .scan, pid := pid, serValid := false,
        trace := s.trace ++ [.frm [0x78, 0x78, 0x00, pid, x]] } := by
  have hnone : frameSerial (frameBytes 0x00 pid [x]) = none := (frameSerial_eq_none_iff _).2 (Nat.le_refl 6)
  rw [State.takeFrame, State.setFields_of_none _ pid hnone]
  rfl

/-- Settles O38: without a serial no kind answers. -/
theorem fiveByteFramesGetNoResponse : Obligations.FiveByteFramesGetNoResponse := by
  intro x s after
  refine ⟨fun k hk => ?_, fun k hk => ?_, ?_, fun pid => ?_⟩
  · rw [exec_of_mem_ackKinds hk, takeFrame_of_five, answerAck_of_not_serValid rfl]
  · rw [exec_of_mem_silentKinds hk, takeFrame_of_five, answerNothing_of_not_serValid rfl]
  · rw [exec, execTimeCal, takeFrame_of_five, answerTimecal_of_not_serValid rfl]
  · rw [exec, execOther, takeFrame_of_five, answerNothing_of_not_serValid rfl]

end Sys2Proof.Machine
end

section
/-! PROOF. The register of the checksum bit by bit (spec/41_crc.md R122, spec/20_memory.md R44): a byte put into
the register before its eight shifts is a byte fed to the generator one bit at a time, for the shift is linear. -/

namespace Sys2Proof

theorem crcShifts_eq_iterate (n : Nat) (c : Word16) : crcShifts n c = crcShift^[n] c := by
  induction n generalizing c with
  | zero => rfl
  | succ n ih => exact ih (crcShift c)

theorem crcShifts_succ (n : Nat) (c : Word16) : crcShifts (n + 1) c = crcShift (crcShifts n c) := crcShifts_add n 1 c

/-- A bit waiting in the lowest place of the register is a bit fed from outside. -/
theorem crcShift_xor (c x : Word16) : crcShift (c ^^^ x) = Machine.crcBit c (x.getLsbD 0) ^^^ (x >>> 1) := by
  have hshift : (c ^^^ x) >>> 1 = (c >>> 1) ^^^ (x >>> 1) := BitVec.ushiftRight_xor_distrib c x 1
  simp only [crcShift, Machine.crcBit, BitVec.getLsbD_xor, hshift]
  rw [Bool.bne_eq_xor]
  split_ifs
  · rw [BitVec.xor_assoc, BitVec.xor_comm (x >>> 1), BitVec.xor_assoc]
  · rfl

/-- After `n` shifts the lowest `n` bits of `x` have been fed, and the others wait in the register. -/
theorem crcShifts_xor (n : Nat) (c x : Word16) :
    crcShifts n (c ^^^ x) = ((List.range n).map x.getLsbD).foldl Machine.crcBit c ^^^ (x >>> n) := by
  induction n with
  | zero => simp [crcShifts]
  | succ n ih =>
    rw [crcShifts_succ, ih, crcShift_xor, List.range_succ, List.map_append, List.foldl_append]
    simp [BitVec.shiftRight_add]

theorem crcByte_eq_foldl (c : Word16) (b : Byte) : crcByte c b = (Machine.bitsOf b).foldl Machine.crcBit c := by
  have hbits : (List.range 8).map (b.zeroExtend 16).getLsbD = Machine.bitsOf b := by
    refine List.map_congr_left fun i hi => ?_
    have := List.mem_range.1 hi
    simp
    omega
  have hnone : b.zeroExtend 16 >>> 8 = 0#16 := by
    have hb := b.isLt
    refine BitVec.eq_of_toNat_eq ?_
    simp [Nat.shiftRight_eq_div_pow]
    omega
  rw [crcByte, crcShifts_xor, hbits, hnone, BitVec.xor_zero]

/-- Settles O41: the loop is eight shifts, and they feed the bits of the byte. -/
theorem crcByteTakesTheBitsLeastSignificantFirst : Obligations.CrcByteTakesTheBitsLeastSignificantFirst := by
  intro b s shift
  rw [Machine.exec_crcByte]
  refine ⟨?_, ?_⟩
  · rw [crcByte, crcShifts_eq_iterate]
    rfl
  · rw [crcByte_eq_foldl]

end Sys2Proof
end

section
/-! PROOF. Two runs side by side (spec/70_reset_and_hazards.md R225 to R227, spec/10_state.md R20): the pass reads
the bytes from `OFF` on and the time input, and no register that it has not written itself, so from two states that
agree in these it emits the same events and retains the same bytes. -/

namespace Sys2Proof.Machine

/-! ### Agreement of two states and of two runs -/

/-- What an answer reads beside the frame: the time input. -/
structure SameTime (s s' : State) : Prop where
  nowPort : s'.nowPort = s.nowPort
  draws : s'.draws = s.draws

/-- The two states agree in what the pass reads before it has written it: the bytes from `OFF` on, the control
position and the time input. -/
structure LooksLike (s s' : State) : Prop where
  window : s'.window = s.window
  control : s'.ctl = s.ctl
  time : SameTime s s'

/-- From `s` to `t` and from `s'` to `t'` the same events have been emitted. -/
def SameEvents (s s' t t' : State) : Prop := ∃ events, t.trace = s.trace ++ events ∧ t'.trace = s'.trace ++ events

theorem SameEvents.of_trace_eq {s s' t t' : State} (h : t.trace = s.trace) (h' : t'.trace = s'.trace) :
    SameEvents s s' t t' := ⟨[], by rw [h, List.append_nil], by rw [h', List.append_nil]⟩

theorem SameEvents.trans {s s' t t' u u' : State} (h : SameEvents s s' t t') (h' : SameEvents t t' u u') :
    SameEvents s s' u u' := by
  obtain ⟨first, ht, ht'⟩ := h
  obtain ⟨second, hu, hu'⟩ := h'
  exact ⟨first ++ second, by rw [hu, ht, List.append_assoc], by rw [hu', ht', List.append_assoc]⟩

/-! ### `PROCESS` -/

theorem SameTime.nowValue {s s' : State} (h : SameTime s s') : s'.nowValue = s.nowValue := by
  simp only [State.nowValue, h.nowPort, h.draws]

theorem SameTime.nowTaken {s s' : State} (h : SameTime s s') : SameTime s.nowTaken s'.nowTaken := by
  simp only [nowTaken_eq, h.nowPort, h.draws]
  exact ⟨rfl, rfl⟩

theorem SameTime.drawTime {s s' : State} (h : SameTime s s') (now : Now) :
    SameTime (s.drawTime now) (s'.drawTime now) := by
  simp only [drawTime_eq, h.draws]
  exact ⟨h.nowPort, rfl⟩

theorem SameTime.timeBytes {s s' : State} (h : SameTime s s') (now : Now) : s'.timeBytes now = s.timeBytes now := by
  simp only [State.timeBytes, h.draws]

/-- The answer to `8A` is the same six time bytes, whatever the registers hold (R137, R207). -/
theorem SameTime.answerTimecal {s s' : State} (h : SameTime s s') (p a b : Byte) :
    let fields (x : State) : State := { x with pid := p, ser0 := a, ser1 := b, serValid := true }
    SameTime (fields s).answerTimecal (fields s').answerTimecal ∧
      SameEvents s s' (fields s).answerTimecal (fields s').answerTimecal := by
  intro fields
  have htime : SameTime (fields s) (fields s') := ⟨h.nowPort, h.draws⟩
  rw [answerTimecal_of_serValid (s := fields s) rfl, answerTimecal_of_serValid (s := fields s') rfl, htime.nowValue,
    htime.nowTaken.timeBytes]
  have hdrawn := htime.nowTaken.drawTime (fields s).nowValue
  exact ⟨⟨hdrawn.nowPort, hdrawn.draws⟩, _, rfl, rfl⟩

theorem SameTime.processFrame {s s' : State} (h : SameTime s s') (len pid : Byte) (tail : Bytes) :
    ∃ t t', processFrame (frameBytes len pid tail) s = .next t ∧ processFrame (frameBytes len pid tail) s' = .next t' ∧
      SameTime t t' ∧ SameEvents s s' t t' := by
  cases hser : frameSerial (frameBytes len pid tail) with
  | none =>
    refine ⟨_, _, processFrame_of_none s hser, processFrame_of_none s' hser, ⟨?_, ?_⟩, .of_trace_eq ?_ ?_⟩
    · simpa using h.nowPort
    · simpa using h.draws
    · simp
    · simp
  | some ab =>
    by_cases hp : pid = timecalId
    · obtain ⟨htime, hevents⟩ := h.answerTimecal pid ab.1 ab.2
      exact ⟨_, _, processFrame_of_timecal hser hp, processFrame_of_timecal hser hp, htime, hevents⟩
    · by_cases ha : pid ∈ ackSet
      · refine ⟨_, _, processFrame_of_mem_ackSet hser ha, processFrame_of_mem_ackSet hser ha, ?_⟩
        rw [answerAck_of_serValid rfl, answerAck_of_serValid rfl]
        exact ⟨⟨h.nowPort, h.draws⟩, _, rfl, rfl⟩
      · exact ⟨_, _, processFrame_of_unanswered hser hp ha, processFrame_of_unanswered hser hp ha,
          ⟨h.nowPort, h.draws⟩, .of_trace_eq rfl rfl⟩

/-! ### The loop -/

theorem SameMove.sameTime {s s' t t' : State} (h : SameMove s s' t t') (htime : SameTime s s') :
    SameTime t t' ∧ SameEvents s s' t t' := by
  cases h with
  | short | skip | wait => exact ⟨⟨htime.nowPort, htime.draws⟩, .of_trace_eq rfl rfl⟩
  | @emit len pid tail _ _ hp hp' =>
    have hafter : SameTime (s.afterEmit len pid tail) (s'.afterEmit len pid tail) := ⟨htime.nowPort, htime.draws⟩
    have hframe : SameEvents s s' (s.afterEmit len pid tail) (s'.afterEmit len pid tail) := ⟨_, rfl, rfl⟩
    obtain ⟨_, _, hp₁, hp₁', hsame, hevents⟩ := hafter.processFrame len pid tail
    obtain rfl := Host.Outcome.next.inj (hp.symm.trans hp₁)
    obtain rfl := Host.Outcome.next.inj (hp'.symm.trans hp₁')
    exact ⟨hsame, hframe.trans hevents⟩

theorem SameMove.control {s s' t t' : State} (h : SameMove s s' t t') : t'.ctl = t.ctl := by
  cases h with
  | short | skip | wait => rfl
  | @emit len pid tail _ _ hp hp' =>
    obtain ⟨_, hp₁, -, -, -, -, hctl, -⟩ := processFrame_next len pid tail (s.afterEmit len pid tail)
    obtain ⟨_, hp₁', -, -, -, -, hctl', -⟩ := processFrame_next len pid tail (s'.afterEmit len pid tail)
    obtain rfl := Host.Outcome.next.inj (hp.symm.trans hp₁)
    obtain rfl := Host.Outcome.next.inj (hp'.symm.trans hp₁')
    exact hctl'.trans hctl.symm

theorem LooksLike.passIteration {s s' t : State} (h : LooksLike s s') (hs : AtLoopHead s) (hs' : AtLoopHead s')
    (hit : passIteration s = .next t) : ∃ t', passIteration s' = .next t' ∧ LooksLike t t' ∧ SameEvents s s' t t' := by
  have hwindow : s'.window = s.window ++ [] := by rw [h.window, List.append_nil]
  obtain ⟨_, t', hit₁, hit', hmove, hnext⟩ := exists_sameMove hs hs' hwindow fun _ => rfl
  obtain rfl := Host.Outcome.next.inj (hit.symm.trans hit₁)
  obtain ⟨htime, hevents⟩ := hmove.sameTime h.time
  rw [List.append_nil] at hnext
  exact ⟨t', hit', ⟨hnext, hmove.control, htime⟩, hevents⟩

theorem LooksLike.loopRun {s s' t : State} (h : LooksLike s s') (hs : AtLoopHead s) (hs' : AtLoopHead s')
    (hrun : LoopRun s t) : ∃ t', LoopRun s' t' ∧ LooksLike t t' ∧ SameEvents s s' t t' := by
  induction hrun generalizing s' with
  | ends hit hc =>
    obtain ⟨t', hit', hlooks, hevents⟩ := h.passIteration hs hs' hit
    exact ⟨t', .ends hit' (hlooks.control.trans hc), hlooks, hevents⟩
  | continues hit ht _ ih =>
    obtain ⟨t', hit', hlooks, hevents⟩ := h.passIteration hs hs' hit
    obtain ⟨ht', -⟩ := hs'.of_passIteration hit' (hlooks.control.trans ht.control)
    obtain ⟨u', hrun', hlooks', hevents'⟩ := ih hlooks ht ht'
    exact ⟨u', .continues hit' ht' hrun', hlooks', hevents.trans hevents'⟩

/-! ### `FEED` -/

/-- A `FEED` from two states that hold the same bytes and have the same time input. -/
theorem feed_alike {s s' : State} (c : Bytes) (hb : BufOk s) (hb' : BufOk s') (hbytes : s'.bytes = s.bytes)
    (htime : SameTime s s') :
    ∃ t t', exec (.feed c) s = .next t ∧ exec (.feed c) s' = .next t' ∧ SameEvents s s' t t' ∧ SameTime t t' ∧
      t'.buf = t.buf ∧ t'.bufLen = t.bufLen ∧ t'.off = t.off := by
  have hs := enterFeed_atLoopHead hb c
  have hs' := enterFeed_atLoopHead hb' c
  have hlooks : LooksLike (s.enterFeed c) (s'.enterFeed c) :=
    ⟨by rw [enterFeed_window hb', enterFeed_window hb, hbytes], rfl, htime.nowPort, htime.draws⟩
  obtain ⟨t, hrun⟩ := hs.exists_loopRun
  obtain ⟨t', hrun', hlooks', hevents⟩ := hlooks.loopRun hs hs' hrun
  have ht := hrun.bufOk hs
  have ht' := hrun'.bufOk hs'
  refine ⟨_, _, hrun.exec_feed hb, hrun'.exec_feed hb', hevents, ⟨hlooks'.time.nowPort, hlooks'.time.draws⟩,
    ?_, ?_, rfl⟩
  · show t'.compact.buf = t.compact.buf
    rw [compact_buf ht', compact_buf ht, hlooks'.window]
  · show t'.avail = t.avail
    rw [← window_length ht', ← window_length ht, hlooks'.window]

/-- Settles O59: the two blocks that a `RESET` leaves are both empty, and feed the same bytes. -/
theorem resetForgetsTheEarlierStream : Obligations.ResetForgetsTheEarlierStream := by
  intro s1 s2 c hport hdraws
  obtain ⟨t1, t2, h1, h2, ⟨events, ht1, ht2⟩, -, hbuf, hlen, -⟩ :=
    feed_alike (s := s1.afterReset) (s' := s2.afterReset) c (bufOk_of_empty rfl rfl) (bufOk_of_empty rfl rfl) rfl
      ⟨hport.symm, hdraws.symm⟩
  refine ⟨events, t1, t2, ?_, ?_, ht1, ht2, hbuf.symm, hlen.symm⟩
  · rw [exec_reset, andThen_next, h1]
  · rw [exec_reset, andThen_next, h2]

/-- Settles O60: none of these registers is the buffer, the trace or the time input. -/
theorem transientRegistersAreUnobservable : Obligations.TransientRegistersAreUnobservable := by
  intro s c fl crc rsp rspLen pid ser0 ser1 serValid h
  have hb := h.1.buffer
  obtain ⟨t1, t2, h1, h2, ⟨events, ht1, ht2⟩, htime, hbuf, hlen, hoff⟩ :=
    feed_alike (s := s)
      (s' := { s with
        fl := fl, crc := crc, rsp := rsp, rspLen := rspLen, pid := pid, ser0 := ser0, ser1 := ser1,
        serValid := serValid })
      c hb (bufOk_of_eq hb rfl rfl) rfl ⟨rfl, rfl⟩
  exact ⟨t1, t2, h1, h2, ht1.trans ht2.symm, hbuf.symm, hlen.symm, hoff.symm, htime.nowPort.symm, htime.draws.symm⟩

end Sys2Proof.Machine
end

section
/-! PROOF. What the pass makes of a frame split in two, of garbage before a frame, and of one byte more
(spec/40_framer.md R103, R104, R106): `FEED` realises the pass, so each is a fact about the pass as a relation. -/

namespace Sys2Proof.Machine

/-! ### The frames of a trace -/

theorem framesOf_append (t u : List Event) : framesOf (t ++ u) = framesOf t ++ framesOf u :=
  List.filterMap_append

theorem framesOf_responses (r : Option Bytes) : framesOf (r.map Event.rsp).toList = [] := by
  cases r <;> rfl

theorem Paired.framesOf_eq {frames : List Bytes} {events : List Event} (h : Paired frames events) :
    framesOf events = frames := by
  induction h with
  | nil => rfl
  | @frame f r frames events _ _ ih =>
    change f :: framesOf ((r.map Event.rsp).toList ++ events) = f :: frames
    rw [framesOf_append, framesOf_responses, ih, List.nil_append]

/-- A `FEED` in terms of the pass: the frames it emits, and the bytes it retains. -/
theorem feed_of_pass {s : State} {c : Bytes} {frames : List Bytes} {kept : Bytes} (h : AtRest s)
    (hpass : Pass (s.bytes ++ c) frames kept) :
    ∃ t, exec (.feed c) s = .next t ∧ AtRest t ∧ framesOf t.trace = framesOf s.trace ++ frames ∧ t.bytes = kept ∧
      (frames = [] → t.trace = s.trace) := by
  obtain ⟨t, _, events, hfeed, ht, -, honly, htrace, hpaired, -⟩ := feedRealisesThePass s c h
  obtain ⟨rfl, rfl⟩ := honly _ _ hpass
  refine ⟨t, hfeed, ht, by rw [htrace, framesOf_append, hpaired.framesOf_eq], rfl, ?_⟩
  rintro rfl
  rw [htrace, hpaired.eq_nil, List.append_nil]

theorem bufLen_eq_zero {s : State} (hb : BufOk s) (h : s.bytes = []) : s.bufLen = 0 := by rw [hb.2, h]; rfl

/-! ### A frame split in two -/

/-- The beginning of a frame stalls (R92, R96). -/
theorem isStalled_of_frame_begun {f1 f2 : Bytes} (hf : isFrame (f1 ++ f2) = true) (hne : f2 ≠ []) :
    isStalled f1 = true := by
  rw [isStalled_iff]
  have hpos := List.length_pos_of_ne_nil hne
  by_cases h6 : f1.length < 6
  · exact .inl h6
  · obtain ⟨len, pid, tail, heq, ht⟩ := (isFrame_iff _).1 hf
    have hlen := congrArg List.length heq
    rw [List.length_append, frameBytes_length, ht] at hlen
    match f1, heq with
    | a :: b :: l :: more, heq =>
      simp only [frameBytes, List.cons_append, List.cons.injEq] at heq
      obtain ⟨rfl, rfl, rfl, -⟩ := heq
      exact .inr ⟨_, _, rfl, Nat.not_lt.1 h6, by rw [frameLength_eq]; omega⟩
    | [_, _], _ => simp at h6
    | [_], _ => simp at h6
    | [], _ => simp at h6

/-- Of a frame of 6 bytes or more alone the pass emits it and retains nothing. -/
theorem pass_of_isFrame {f : Bytes} (hf : isFrame f = true) (h6 : 6 ≤ f.length) : Pass f [f] [] := by
  have hpass := Pass.emit (bs := []) (by rw [List.append_nil]; exact h6) hf (.short (Nat.zero_lt_succ 5))
  rwa [List.append_nil] at hpass

/-- Settles O20: the beginning of the frame stalls, and the rest completes it. -/
theorem partialFrameIsRetained : Obligations.PartialFrameIsRetained := by
  intro s f1 f2 h hempty _ hne hf h6
  have hnil := bytes_eq_nil h.1.buffer hempty
  have hstalled := isStalled_of_frame_begun hf hne
  obtain ⟨t, hfeed, ht, htrace, hbytes⟩ := feed_of_isStalled (c := f1) h (by rw [hnil]; exact hstalled)
  rw [hnil, List.nil_append] at hbytes
  obtain ⟨u, hfeed', hu, hframes, hkept, -⟩ :=
    feed_of_pass (c := f2) ht (by rw [hbytes]; exact pass_of_isFrame hf h6)
  exact ⟨t, u, hfeed, htrace, hbytes, hfeed', by rw [hframes, htrace], bufLen_eq_zero hu.1.buffer hkept⟩

/-! ### Garbage before a frame -/

/-- The pass skips every byte at which no sync begins (R94, R103). -/
theorem pass_of_garbage {g f kept : Bytes} {frames : List Bytes} (hpass : Pass f frames kept) (h6 : 6 ≤ f.length)
    (hg : ∀ i, i < g.length → ¬ ((g ++ f)[i]? = some 0x78 ∧ (g ++ f)[i + 1]? = some 0x78)) :
    Pass (g ++ f) frames kept := by
  induction g with
  | nil => exact hpass
  | cons a g ih =>
    have hlen : 6 ≤ (a :: (g ++ f)).length := by
      rw [List.length_cons, List.length_append]
      omega
    refine .skip hlen (hg 0 (Nat.zero_lt_succ _)) (ih fun i hi => ?_)
    simpa only [List.cons_append, List.getElem?_cons_succ] using hg (i + 1) (Nat.succ_lt_succ hi)

/-- Settles O21: the garbage is skipped byte by byte, and the frame alone is emitted. -/
theorem garbageBeforeAFrameIsDiscarded : Obligations.GarbageBeforeAFrameIsDiscarded := by
  intro s g f h hempty hf h6 hg
  have hpass := pass_of_garbage (pass_of_isFrame hf h6) h6 hg
  have hnil := bytes_eq_nil h.1.buffer hempty
  obtain ⟨t, hfeed, ht, hframes, hkept, -⟩ := feed_of_pass (c := g ++ f) h (by rw [hnil]; exact hpass)
  exact ⟨t, hfeed, hframes, bufLen_eq_zero ht.1.buffer hkept⟩

/-! ### One byte more -/

/-- A frame that one byte more completes leaves at most that byte (R106). -/
theorem length_rest_le_one {bs f rest : Bytes} {b : Byte} (hst : isStalled bs = true) (hf : isFrame f = true)
    (h : bs ++ [b] = f ++ rest) : rest.length ≤ 1 := by
  have hlen := congrArg List.length h
  simp only [List.length_append, List.length_singleton] at hlen
  rcases (isStalled_iff bs).1 hst with h6 | ⟨len, more, rfl, -, hl⟩
  · have := isFrame_length hf
    omega
  · obtain ⟨len', pid, tail, rfl, ht⟩ := (isFrame_iff f).1 hf
    simp only [frameBytes, List.cons_append, List.cons.injEq] at h
    obtain ⟨-, -, rfl, -⟩ := h
    rw [frameBytes_length, ht] at hlen
    rw [frameLength_eq] at hl
    omega

/-- What a stall becomes with one byte more: a stall again, six bytes that begin with no sync, or a frame with at
most one byte after it. -/
theorem stalled_append_cases {bs : Bytes} (b : Byte) (hst : isStalled bs = true) :
    isStalled (bs ++ [b]) = true ∨ (bs.length = 5 ∧ ¬ startsSync (bs ++ [b])) ∨
      ∃ f rest, bs ++ [b] = f ++ rest ∧ isFrame f = true ∧ 6 ≤ (f ++ rest).length ∧ rest.length ≤ 1 := by
  rcases passCondition_cases (bs ++ [b]) with ⟨-, h⟩ | ⟨-, h6, hm⟩ | ⟨hc, f, rest, heq, hf⟩
  · exact .inl h
  · rw [List.length_append, List.length_singleton] at h6
    rcases (isStalled_iff bs).1 hst with h5 | ⟨len, more, rfl, -, -⟩
    · exact .inr (.inl ⟨by omega, hm⟩)
    · exact absurd ⟨rfl, rfl⟩ hm
  · by_cases h6 : (f ++ rest).length < 6
    · exact .inl (heq ▸ (isStalled_iff _).2 (.inl h6))
    · exact .inr (.inr ⟨f, rest, heq, hf, Nat.not_lt.1 h6, length_rest_le_one hst hf heq⟩)

/-- Settles O23: the block was at a stall, and what follows the skip or the frame is too short for another move. -/
theorem oneByteFeedMakesAtMostOneMove : Obligations.OneByteFeedMakesAtMostOneMove := by
  intro s b h
  obtain ⟨-, hst, -⟩ := h.rest
  rcases stalled_append_cases b hst with hstalls | ⟨h5, hm⟩ | ⟨f, rest, heq, hf, h6, hrest⟩
  · obtain ⟨t, hfeed, -, htrace, hbytes⟩ := feed_of_isStalled h hstalls
    exact ⟨t, hfeed, .inl ⟨hbytes, htrace⟩⟩
  · obtain ⟨a, more, hbytes⟩ : ∃ a more, s.bytes = a :: more := List.exists_cons_of_length_eq_add_one h5
    have hmore : (more ++ [b]).length = 5 := by
      rw [hbytes, List.length_cons] at h5
      rw [List.length_append, List.length_singleton]
      omega
    rw [hbytes, List.cons_append] at hm
    have hpass : Pass (s.bytes ++ [b]) [] (more ++ [b]) := by
      rw [hbytes, List.cons_append]
      exact .skip (by rw [List.length_cons]; omega) hm (.short (by omega))
    obtain ⟨t, hfeed, -, -, hkept, htrace⟩ := feed_of_pass h hpass
    exact ⟨t, hfeed, .inr (.inl ⟨h.1.buffer.2.trans h5, by rw [hkept, hbytes]; rfl, htrace rfl⟩)⟩
  · have hpass : Pass (s.bytes ++ [b]) [f] rest := by
      rw [heq]
      exact .emit h6 hf (.short (by omega))
    obtain ⟨t, hfeed, -, hframes, hkept, -⟩ := feed_of_pass h hpass
    exact ⟨t, hfeed, .inr (.inr ⟨f, rest, heq, hf, hrest, hkept, hframes⟩)⟩

end Sys2Proof.Machine
end

section
/-! PROOF. The read faults, the length step, the serial of a short frame, packed BCD and `RESET`
(spec/20_memory.md R40, R47; spec/40_framer.md R95; spec/30_encoding.md R75; spec/42_response.md R141;
spec/70_reset_and_hazards.md R225, R227). -/

namespace Sys2Proof.Machine

/-! ### The reads of `BUF` -/

/-- Settles O29: the nine bits of `FL` hold `len + 5`. -/
theorem lenReadsTheFrameLength : Obligations.LenReadsTheFrameLength := by
  intro s len _ hread
  refine ⟨frameLength9 len, frameLength9_toNat len, ?_⟩
  rw [exec, execFLen, withByte_of_read hread]
  rfl

theorem withByte_of_bufLen_le {s : State} (hb : BufOk s) {a : Nat} (h : s.bufLen ≤ a) (k : Byte → Outcome) :
    withByte s a k = .fault (.outsideBuffer a) := by
  simp only [withByte, read_buf_above hb h]

theorem withRun_of_bufLen_lt {s : State} (hb : BufOk s) {a n : Nat} (hn : 0 < n) (h : s.bufLen < a + n)
    (k : Bytes → Outcome) : withRun s a n k = .fault (.outsideBuffer a) := by
  have hnone : Memory.readRun s.buf a n = none := by
    rw [hb.1]
    exact Memory.readRun_ofBytes_none _ a n hn (hb.2 ▸ h)
  simp only [withRun, hnone]

/-- Settles O33: an index at or above `BUF_LEN` holds no byte; of the two bytes of the sync test the second, if not
the first, is missing. -/
theorem readsOutsideTheBufferFault : Obligations.ReadsOutsideTheBufferFault := by
  intro s hb
  refine ⟨fun h => ?_, fun h => withByte_of_bufLen_le hb h _, fun hn h => withRun_of_bufLen_lt hb hn h _⟩
  rw [exec, execFSkip, withByte_of_bufOk hb]
  split
  next => exact ⟨s.off + 1, withByte_of_bufLen_le hb h _⟩
  next => exact ⟨s.off, rfl⟩

/-! ### The serial of a short frame -/

/-- Settles O45: the serial stands at `L - 6` and `L - 5`, where a short frame has its header. -/
theorem runtFramesUseHeaderBytesAsSerial : Obligations.RuntFramesUseHeaderBytesAsSerial := by
  intro pid x y z u v w
  simp only [frameSerial_eq_none_iff, frameSerial_eq_some_iff]
  simp

/-! ### `RESET` -/

/-- Settles O57: the buffer is empty, and the platform's side is not among what `RESET` writes. -/
theorem resetEmptiesTheBlock : Obligations.ResetEmptiesTheBlock :=
  fun s => ⟨s.afterReset, exec_reset s, rfl, rfl, Memory.read_nil, rfl, rfl, rfl, rfl, rfl, rfl⟩

/-- Settles O58: what `RESET` writes does not depend on what was there. -/
theorem resetTwiceChangesNothing : Obligations.ResetTwiceChangesNothing := by
  intro s t h
  obtain rfl := Host.Outcome.next.inj ((exec_reset s).symm.trans h)
  rfl

end Sys2Proof.Machine

namespace Sys2Proof

/-! ### Packed BCD -/

/-- Settles O55: the packed byte is sixteen times the tens digit plus the units digit. -/
theorem bcdPutsTheTensDigitHigh : Obligations.BcdPutsTheTensDigitHigh := by
  refine ⟨fun v hv => ⟨?_, ?_⟩, by decide⟩
  all_goals
    refine BitVec.eq_of_toNat_eq ?_
    rw [BitVec.extractLsb'_toNat, bcd_toNat hv, BitVec.toNat_ofNat]
    simp only [Nat.shiftRight_eq_div_pow]
    omega

end Sys2Proof
end
